-- ==== Sys2Proof/Word.lean ====
section
/-! DEFINITION. The word types (00_scope.md R9, R10): a byte is 8 bits, a host-visible register 32 bits. -/

namespace Sys2Proof

/-- A byte of the stream, the ring or host memory (R10). -/
abbrev Byte := BitVec 8

/-- A host-visible register, `in_pos`, `out_pos`: REG_W = 32 bits (R9). -/
abbrev Word := BitVec 32

/-- A Huffman symbol, 9 bits, so that 0..287 fits (R29, R34). -/
abbrev Sym := BitVec 9

end Sys2Proof
end

