-- ==== Sys2Proof/Config.lean ====
section
/-! DEFINITION. The free values: constants without a body, one for each value the spec leaves unspecified. Nothing in
Lean can evaluate them, so a statement about them holds for every value. The parameters the spec leaves OPEN (CORE_BASE,
HOST_ADDR_W) are fields of State, so that a statement over every state is a statement over every value of them
(notes/assumptions/16.md). -/

namespace Sys2Proof

/-- Host memory nobody has written: the byte at an address, in an epoch of that address (R42, R77; log 4, 5). The
epoch of an address changes when a failed stop makes its contents unspecified. -/
opaque Config.hostByte : (epoch address : Nat) → Byte

/-- A ring slot EMIT has not written in the session (R25, V1; log 6). -/
opaque Config.ringByte : (session slot : Nat) → Byte

/-- An entry of `lens` nothing has written in the session (R32, V2; log 7). -/
opaque Config.codeLen : (session index : Nat) → BitVec 4

/-- The counts of a dynamic table after START and before BUILD (R30, V2; log 8); `which` is 0 LT, 1 DT, 2 CT. -/
opaque Config.startCounts : (session which : Nat) → Vector (BitVec 9) 16

/-- The symbols of a dynamic table after START and before BUILD (R30, V2; log 8). -/
opaque Config.startSymbols : (session which : Nat) → List Sym

/-- A working register after START and before its first write (R34, R50, V2; log 8); `which` numbers the register. -/
opaque Config.startReg : (session which : Nat) → BitVec 16

/-- A table entry past the meaningful ones (R29; log 10); no rule reads one. -/
opaque Config.pastSymbol : (index : Nat) → Sym

/-- The `n`-th choice the host's reads draw: which of the values held a BUSY read returns (R41, R44, V5; log 11), and
what a read of not yet visible output returns (R72; log 14). -/
opaque Config.choice : (n : Nat) → Nat

end Sys2Proof
end

