-- ==== Sys2Proof/Syntax.lean ====
section
/-! DEFINITION. The instruction set: one constructor per row of spec/opcode_table.json, in the table's order.
An instruction is a stream element (00_scope.md R5). Its operands are the bits that must be read to tell WHICH element
it is (BFINAL of a block header, a literal/length, distance or code-length symbol); every further field of the element
(extra bits, lengths, container bytes, trailer) is read from the stream by its meaning, in the order its rule gives. -/

namespace Sys2Proof

/-- The stream elements of the core. -/
inductive Instr where
  /-- ID1, ID2 (R221). -/
  | magic
  /-- CM (R222). -/
  | method
  /-- FLG (R223). -/
  | flags
  /-- MTIME, XFL, OS (R224). -/
  | skipFixed
  /-- XLEN and XLEN bytes (R225). -/
  | extra
  /-- A zero-terminated name (R226). -/
  | name
  /-- A zero-terminated comment (R227). -/
  | comment
  /-- The header checksum (R228). -/
  | hcrc
  /-- CRC32 and ISIZE (R231), then the end of the session (R233). -/
  | trailer
  /-- Block header with BTYPE 00; `f` is BFINAL (R191, R192). -/
  | blockStored (f : BitVec 1)
  /-- Block header with BTYPE 01; `f` is BFINAL (R191, R193). -/
  | blockFixed (f : BitVec 1)
  /-- Block header with BTYPE 10; `f` is BFINAL (R191, R194). -/
  | blockDynamic (f : BitVec 1)
  /-- Block header with BTYPE 11; `f` is BFINAL (R191, R195). -/
  | blockReserved (f : BitVec 1)
  /-- ALIGN, LEN, NLEN and the data of a stored block (R192). -/
  | storedLen
  /-- HLIT, HDIST, HCLEN (R196). -/
  | dynHdr
  /-- One 3-bit code length of the code-length alphabet (R197). -/
  | cll
  /-- Code-length symbol 0..15: a literal length (R200). -/
  | clLit (sym : Sym)
  /-- Code-length symbol 16 (R201). -/
  | clRep16
  /-- Code-length symbol 17 (R202). -/
  | clZero17
  /-- Code-length symbol 18 (R203). -/
  | clZero18
  /-- Literal/length symbol 0..255: a literal byte (R171). -/
  | lit (sym : Sym)
  /-- Literal/length symbol 256: end of block (R172). -/
  | eob
  /-- Literal/length symbol 257: a match length (R173). -/
  | len257
  /-- Literal/length symbol 258: a match length (R173). -/
  | len258
  /-- Literal/length symbol 259: a match length (R173). -/
  | len259
  /-- Literal/length symbol 260: a match length (R173). -/
  | len260
  /-- Literal/length symbol 261: a match length (R173). -/
  | len261
  /-- Literal/length symbol 262: a match length (R173). -/
  | len262
  /-- Literal/length symbol 263: a match length (R173). -/
  | len263
  /-- Literal/length symbol 264: a match length (R173). -/
  | len264
  /-- Literal/length symbol 265: a match length (R173). -/
  | len265
  /-- Literal/length symbol 266: a match length (R173). -/
  | len266
  /-- Literal/length symbol 267: a match length (R173). -/
  | len267
  /-- Literal/length symbol 268: a match length (R173). -/
  | len268
  /-- Literal/length symbol 269: a match length (R173). -/
  | len269
  /-- Literal/length symbol 270: a match length (R173). -/
  | len270
  /-- Literal/length symbol 271: a match length (R173). -/
  | len271
  /-- Literal/length symbol 272: a match length (R173). -/
  | len272
  /-- Literal/length symbol 273: a match length (R173). -/
  | len273
  /-- Literal/length symbol 274: a match length (R173). -/
  | len274
  /-- Literal/length symbol 275: a match length (R173). -/
  | len275
  /-- Literal/length symbol 276: a match length (R173). -/
  | len276
  /-- Literal/length symbol 277: a match length (R173). -/
  | len277
  /-- Literal/length symbol 278: a match length (R173). -/
  | len278
  /-- Literal/length symbol 279: a match length (R173). -/
  | len279
  /-- Literal/length symbol 280: a match length (R173). -/
  | len280
  /-- Literal/length symbol 281: a match length (R173). -/
  | len281
  /-- Literal/length symbol 282: a match length (R173). -/
  | len282
  /-- Literal/length symbol 283: a match length (R173). -/
  | len283
  /-- Literal/length symbol 284: a match length (R173). -/
  | len284
  /-- Literal/length symbol 285: a match length (R173). -/
  | len285
  /-- Literal/length symbol 286 or 287: no length is defined (R175). -/
  | invalidLen (sym : Sym)
  /-- Distance symbol 0 (R174). -/
  | dist0
  /-- Distance symbol 1 (R174). -/
  | dist1
  /-- Distance symbol 2 (R174). -/
  | dist2
  /-- Distance symbol 3 (R174). -/
  | dist3
  /-- Distance symbol 4 (R174). -/
  | dist4
  /-- Distance symbol 5 (R174). -/
  | dist5
  /-- Distance symbol 6 (R174). -/
  | dist6
  /-- Distance symbol 7 (R174). -/
  | dist7
  /-- Distance symbol 8 (R174). -/
  | dist8
  /-- Distance symbol 9 (R174). -/
  | dist9
  /-- Distance symbol 10 (R174). -/
  | dist10
  /-- Distance symbol 11 (R174). -/
  | dist11
  /-- Distance symbol 12 (R174). -/
  | dist12
  /-- Distance symbol 13 (R174). -/
  | dist13
  /-- Distance symbol 14 (R174). -/
  | dist14
  /-- Distance symbol 15 (R174). -/
  | dist15
  /-- Distance symbol 16 (R174). -/
  | dist16
  /-- Distance symbol 17 (R174). -/
  | dist17
  /-- Distance symbol 18 (R174). -/
  | dist18
  /-- Distance symbol 19 (R174). -/
  | dist19
  /-- Distance symbol 20 (R174). -/
  | dist20
  /-- Distance symbol 21 (R174). -/
  | dist21
  /-- Distance symbol 22 (R174). -/
  | dist22
  /-- Distance symbol 23 (R174). -/
  | dist23
  /-- Distance symbol 24 (R174). -/
  | dist24
  /-- Distance symbol 25 (R174). -/
  | dist25
  /-- Distance symbol 26 (R174). -/
  | dist26
  /-- Distance symbol 27 (R174). -/
  | dist27
  /-- Distance symbol 28 (R174). -/
  | dist28
  /-- Distance symbol 29 (R174). -/
  | dist29
  /-- Distance symbol 30 or 31: no distance is defined (R176). -/
  | invalidDist (sym : Sym)
  deriving DecidableEq, Repr

end Sys2Proof
end

