-- ==== Sys2Proof/WellFormed.lean ====
section
/-! DEFINITION. Which terms of `Instr` are instructions: the symbol an element carries is one its row admits. -/

namespace Sys2Proof

/-- The operand ranges the rules give: a literal is 0..255 (R171), a literal code length 0..15 (R200), the invalid
length symbols are 286 and 287 (R175), the invalid distance symbols 30 and 31 (R176). Every other operand is a field
whose every value is admitted. -/
def Instr.wellFormed : Instr → Bool
  | .clLit sym => sym ≤ 15
  | .lit sym => sym ≤ 255
  | .invalidLen sym => sym == 286 || sym == 287
  | .invalidDist sym => sym == 30 || sym == 31
  | .magic | .method | .flags | .skipFixed | .extra | .name | .comment | .hcrc
  | .trailer | .blockStored _ | .blockFixed _ | .blockDynamic _ | .blockReserved _ | .storedLen | .dynHdr | .cll
  | .clRep16 | .clZero17 | .clZero18 | .eob => true
  | .len257 | .len258 | .len259 | .len260 | .len261 | .len262 | .len263 | .len264 | .len265 | .len266
  | .len267 | .len268 | .len269 | .len270 | .len271 | .len272 | .len273 | .len274 | .len275 | .len276
  | .len277 | .len278 | .len279 | .len280 | .len281 | .len282 | .len283 | .len284 | .len285 => true
  | .dist0 | .dist1 | .dist2 | .dist3 | .dist4 | .dist5 | .dist6 | .dist7 | .dist8 | .dist9
  | .dist10 | .dist11 | .dist12 | .dist13 | .dist14 | .dist15 | .dist16 | .dist17 | .dist18 | .dist19
  | .dist20 | .dist21 | .dist22 | .dist23 | .dist24 | .dist25 | .dist26 | .dist27 | .dist28 | .dist29 => true

/-- `i` is an instruction of the table. -/
abbrev Instr.WellFormed (i : Instr) : Prop := i.wellFormed = true

end Sys2Proof
end

