-- ==== Sys2Proof/Decode.lean ====
section
/-! DEFINITION. The decoder and the encoder. An element is told by where it stands in the stream (`Slot`, the control
point of the pseudocode) and by the value its row's `format` names: nothing for a container field, STORED_LEN, DYN_HDR and
CLL (the slot alone decides), the 3-bit header value for a block, the symbol DECODE returned for a Huffman-coded element
(30_encoding.md; spec/INDEX.md, Reading opcode_table.json). -/

namespace Sys2Proof

/-- Which kind of element comes next: the control point of the rules' pseudocode (R190, R196 to R199, R170, R173, R220).
The spec has no register for it; it is the model's own (log 19). -/
inductive Slot where
  /-- No element comes: no session has started, or it has ended in success. -/
  | rest
  | magic | method | flags | skipFixed | extra | name | comment | hcrc
  | blockHeader | storedLen | dynHdr | cll | clSymbol | litLen | dist | trailer
  deriving DecidableEq, Repr

/-- Why a value is no element. None of these can arise in a session (R29, R140, R199: a table holds only symbols of its
alphabet), so each is safe. -/
inductive DecodeError where
  /-- There is no element at `Slot.rest`. -/
  | noElement
  /-- A block header value is 3 bits (R85). -/
  | headerTooWide
  /-- The code-length alphabet is 0..18 (R90). -/
  | notCodeLengthSymbol
  /-- The literal/length alphabet is 0..287 (R91). -/
  | notLiteralLengthSymbol
  /-- The distance alphabet is 0..31 (R93). -/
  | notDistanceSymbol
  deriving DecidableEq, Repr

/-- The block header value: bit 0 is BFINAL, bits 2:1 are BTYPE (R85, R86). -/
def decodeHeader (v : Nat) : Except DecodeError Instr :=
  if 8 ≤ v then .error .headerTooWide
  else
    match v / 2 with
    | 0 => .ok (.blockStored (BitVec.ofNat 1 v))
    | 1 => .ok (.blockFixed (BitVec.ofNat 1 v))
    | 2 => .ok (.blockDynamic (BitVec.ofNat 1 v))
    | _ => .ok (.blockReserved (BitVec.ofNat 1 v))

/-- A code-length symbol (R90, R199). -/
def decodeCodeLength (v : Nat) : Except DecodeError Instr :=
  if v ≤ 15 then .ok (.clLit (BitVec.ofNat 9 v))
  else
    match v with
    | 16 => .ok .clRep16
    | 17 => .ok .clZero17
    | 18 => .ok .clZero18
    | _ => .error .notCodeLengthSymbol

/-- A literal/length symbol above 255 (R91). -/
def decodeLength : Nat → Except DecodeError Instr
  | 256 => .ok .eob
  | 257 => .ok .len257
  | 258 => .ok .len258
  | 259 => .ok .len259
  | 260 => .ok .len260
  | 261 => .ok .len261
  | 262 => .ok .len262
  | 263 => .ok .len263
  | 264 => .ok .len264
  | 265 => .ok .len265
  | 266 => .ok .len266
  | 267 => .ok .len267
  | 268 => .ok .len268
  | 269 => .ok .len269
  | 270 => .ok .len270
  | 271 => .ok .len271
  | 272 => .ok .len272
  | 273 => .ok .len273
  | 274 => .ok .len274
  | 275 => .ok .len275
  | 276 => .ok .len276
  | 277 => .ok .len277
  | 278 => .ok .len278
  | 279 => .ok .len279
  | 280 => .ok .len280
  | 281 => .ok .len281
  | 282 => .ok .len282
  | 283 => .ok .len283
  | 284 => .ok .len284
  | 285 => .ok .len285
  | 286 => .ok (.invalidLen 286)
  | 287 => .ok (.invalidLen 287)
  | _ => .error .notLiteralLengthSymbol

/-- A literal/length symbol (R91, R170). -/
def decodeLitLen (v : Nat) : Except DecodeError Instr :=
  if v ≤ 255 then .ok (.lit (BitVec.ofNat 9 v)) else decodeLength v

/-- A distance symbol (R93, R173). -/
def decodeDist : Nat → Except DecodeError Instr
  | 0 => .ok .dist0
  | 1 => .ok .dist1
  | 2 => .ok .dist2
  | 3 => .ok .dist3
  | 4 => .ok .dist4
  | 5 => .ok .dist5
  | 6 => .ok .dist6
  | 7 => .ok .dist7
  | 8 => .ok .dist8
  | 9 => .ok .dist9
  | 10 => .ok .dist10
  | 11 => .ok .dist11
  | 12 => .ok .dist12
  | 13 => .ok .dist13
  | 14 => .ok .dist14
  | 15 => .ok .dist15
  | 16 => .ok .dist16
  | 17 => .ok .dist17
  | 18 => .ok .dist18
  | 19 => .ok .dist19
  | 20 => .ok .dist20
  | 21 => .ok .dist21
  | 22 => .ok .dist22
  | 23 => .ok .dist23
  | 24 => .ok .dist24
  | 25 => .ok .dist25
  | 26 => .ok .dist26
  | 27 => .ok .dist27
  | 28 => .ok .dist28
  | 29 => .ok .dist29
  | 30 => .ok (.invalidDist 30)
  | 31 => .ok (.invalidDist 31)
  | _ => .error .notDistanceSymbol

/-- The element at a slot whose row's value is `v`; total, and a value that is no element is rejected by name. -/
def decode (slot : Slot) (v : Nat) : Except DecodeError Instr :=
  match slot with
  | .rest => .error .noElement
  | .magic => .ok .magic
  | .method => .ok .method
  | .flags => .ok .flags
  | .skipFixed => .ok .skipFixed
  | .extra => .ok .extra
  | .name => .ok .name
  | .comment => .ok .comment
  | .hcrc => .ok .hcrc
  | .blockHeader => decodeHeader v
  | .storedLen => .ok .storedLen
  | .dynHdr => .ok .dynHdr
  | .cll => .ok .cll
  | .clSymbol => decodeCodeLength v
  | .litLen => decodeLitLen v
  | .dist => decodeDist v
  | .trailer => .ok .trailer

/-- The slot an element stands at. -/
def Instr.slot : Instr → Slot
  | .magic => .magic
  | .method => .method
  | .flags => .flags
  | .skipFixed => .skipFixed
  | .extra => .extra
  | .name => .name
  | .comment => .comment
  | .hcrc => .hcrc
  | .trailer => .trailer
  | .blockStored _ | .blockFixed _ | .blockDynamic _ | .blockReserved _ => .blockHeader
  | .storedLen => .storedLen
  | .dynHdr => .dynHdr
  | .cll => .cll
  | .clLit _ | .clRep16 | .clZero17 | .clZero18 => .clSymbol
  | .invalidDist _ => .dist
  | .dist0 | .dist1 | .dist2 | .dist3 | .dist4 | .dist5 | .dist6 | .dist7 | .dist8 | .dist9 | .dist10 | .dist11 | .dist12 | .dist13 | .dist14 | .dist15 | .dist16 | .dist17 | .dist18 | .dist19 | .dist20 | .dist21 | .dist22 | .dist23 | .dist24 | .dist25 | .dist26 | .dist27 | .dist28 | .dist29 => .dist
  | .lit _ | .eob | .invalidLen _ => .litLen
  | .len257 | .len258 | .len259 | .len260 | .len261 | .len262 | .len263 | .len264 | .len265 | .len266 | .len267 | .len268 | .len269 | .len270 | .len271 | .len272 | .len273 | .len274 | .len275 | .len276 | .len277 | .len278 | .len279 | .len280 | .len281 | .len282 | .len283 | .len284 | .len285 => .litLen

/-- The value of an element's row: its `match` with the operand bits put in (spec/opcode_table.json). The rows whose
value the slot alone decides have the `match` the table gives (0x8B1F for MAGIC, 8 for METHOD, 0 for the others). -/
def Instr.value : Instr → Nat
  | .magic => 0x8B1F
  | .method => 8
  | .flags | .skipFixed | .extra | .name | .comment | .hcrc | .trailer => 0
  | .blockStored f => f.toNat
  | .blockFixed f => 2 + f.toNat
  | .blockDynamic f => 4 + f.toNat
  | .blockReserved f => 6 + f.toNat
  | .storedLen | .dynHdr | .cll => 0
  | .clLit sym => sym.toNat
  | .clRep16 => 16
  | .clZero17 => 17
  | .clZero18 => 18
  | .lit sym => sym.toNat
  | .eob => 256
  | .len257 => 257
  | .len258 => 258
  | .len259 => 259
  | .len260 => 260
  | .len261 => 261
  | .len262 => 262
  | .len263 => 263
  | .len264 => 264
  | .len265 => 265
  | .len266 => 266
  | .len267 => 267
  | .len268 => 268
  | .len269 => 269
  | .len270 => 270
  | .len271 => 271
  | .len272 => 272
  | .len273 => 273
  | .len274 => 274
  | .len275 => 275
  | .len276 => 276
  | .len277 => 277
  | .len278 => 278
  | .len279 => 279
  | .len280 => 280
  | .len281 => 281
  | .len282 => 282
  | .len283 => 283
  | .len284 => 284
  | .len285 => 285
  | .invalidLen sym => sym.toNat
  | .dist0 => 0
  | .dist1 => 1
  | .dist2 => 2
  | .dist3 => 3
  | .dist4 => 4
  | .dist5 => 5
  | .dist6 => 6
  | .dist7 => 7
  | .dist8 => 8
  | .dist9 => 9
  | .dist10 => 10
  | .dist11 => 11
  | .dist12 => 12
  | .dist13 => 13
  | .dist14 => 14
  | .dist15 => 15
  | .dist16 => 16
  | .dist17 => 17
  | .dist18 => 18
  | .dist19 => 19
  | .dist20 => 20
  | .dist21 => 21
  | .dist22 => 22
  | .dist23 => 23
  | .dist24 => 24
  | .dist25 => 25
  | .dist26 => 26
  | .dist27 => 27
  | .dist28 => 28
  | .dist29 => 29
  | .invalidDist sym => sym.toNat

/-- The encoder: where a well-formed element stands and its row's value there. -/
def encode (i : Instr) : Slot × Nat := (i.slot, i.value)

/-- `n` bits of `v`, first the most significant one: how a Huffman code stands in the stream (R67). -/
def msbFirst : (n : Nat) → (v : Nat) → List Bool
  | 0, _ => []
  | n + 1, v => v.testBit n :: msbFirst n v

/-- `n` bits of `v`, first the least significant one: how a bit field stands in the stream (R66). -/
def lsbFirst : (n : Nat) → (v : Nat) → List Bool
  | 0, _ => []
  | n + 1, v => v.testBit 0 :: lsbFirst n (v / 2)

/-- The fixed code of a literal/length symbol, in input order (R96). -/
def fixedLitCode (sym : Nat) : List Bool :=
  if sym ≤ 143 then msbFirst 8 (0x30 + sym)
  else if sym ≤ 255 then msbFirst 9 (0x190 + (sym - 144))
  else if sym ≤ 279 then msbFirst 7 (sym - 256)
  else msbFirst 8 (0xC0 + (sym - 280))

/-- The fixed code of a distance symbol 0..29, in input order (R96). -/
def fixedDistCode (sym : Nat) : List Bool := msbFirst 5 sym

/-- The byte whose bits, least significant first, are the given ones; absent bits are 0 (R65). -/
def packByte : List Bool → Nat
  | [] => 0
  | b :: bs => b.toNat + 2 * packByte bs

/-- Input bits as bytes: bit 0 of a byte is consumed first (R65); the last byte is padded with zeros, and `n` bounds
the number of bytes. -/
def packBytes : (n : Nat) → List Bool → List Byte
  | 0, _ => []
  | n + 1, bits => BitVec.ofNat 8 (packByte (bits.take 8)) :: packBytes n (bits.drop 8)

/-- Which kind of element a row's word of the opcode table stands for. A word of the table does not say its `format`
(the value 8 is METHOD, CL_LIT 8 and DIST_8), so the formats are told apart by the number of bits where they can be,
and a value several rows share goes to one of them by the order below (log 18). -/
def tableSlot (nbits w : Nat) : Option Slot :=
  if 2 ^ nbits ≤ w then none
  else
    match nbits with
    | 8 =>
      if w = 8 then some .method
      else if w = 0 ∨ w = 2 ∨ w = 4 ∨ w = 6 then some .blockHeader
      else if w = 16 ∨ w = 17 ∨ w = 18 then some .clSymbol
      else if w ≤ 31 then some .dist
      else none
    | 16 =>
      if w = 0x8B1F then some .magic
      else if 18 ≤ w ∧ w ≤ 29 then some .dist
      else if w ≤ 287 then some .litLen
      else none
    | 32 => some .storedLen
    | 48 => some .skipFixed
    | 64 => some .trailer
    | _ => none

/-- The decoder applied to a word of the opcode table. -/
def decodeTableWord (nbits w : Nat) : Option Instr :=
  (tableSlot nbits w).bind fun slot => (decode slot w).toOption

end Sys2Proof
end

