-- ==== Sys2Proof/Machine/State.lean ====
section
/-! DEFINITION. The state of the core and of what the host sees of it (10_state.md), as plain data, and the state after
power-on reset (R49). -/

namespace Sys2Proof.Machine

/-- A memory as the list of what has been written: (index, value), indexes strictly rising. An index that is not listed
holds no written value; what a read of it gives is said where the memory is read. A `Store Byte` is a list of
`Host.Cell`. -/
abbrev Store (α : Type) := List (Nat × α)

/-- `state` (R37). -/
inductive SessionState where
  | idle | busy | done | failed
  deriving DecidableEq, Repr

/-- `class` (R37): an architected failure or a fault. -/
inductive StopClass where
  | failure | fault
  deriving DecidableEq, Repr

/-- `phase` (R35). The codes 8..15 are never taken, so eight names are all of it. -/
inductive Phase where
  | idle | gzHeader | blockHeader | stored | dynTables | huffman | trailer
  /-- END. -/
  | sessionEnd
  deriving DecidableEq, Repr

/-- `act_lt` and `act_dt` (R36): the fixed table (FL, FD) or the dynamic one (LT, DT). -/
inductive TableSel where
  | fixed | dynamic
  deriving DecidableEq, Repr

/-- A Huffman table (R29): 16 counts, and the meaningful symbols in order of (length, symbol). The entries of
`T.symbols[0..287]` past the meaningful ones are not held (log 10). -/
structure Table where
  counts : Vector (BitVec 9) 16
  symbols : List Sym
  deriving DecidableEq, Repr

/-- The table with no code: every count 0. -/
def Table.empty : Table := { counts := Vector.replicate 16 0, symbols := [] }

/-- The working registers of R34. -/
structure WorkRegs where
  storedLen : BitVec 16
  storedNlen : BitVec 16
  matchLen : BitVec 9
  matchDist : BitVec 16
  hlit : BitVec 5
  hdist : BitVec 5
  hclen : BitVec 4
  ncodes : BitVec 9
  li : BitVec 9
  rep : BitVec 8
  flg : BitVec 8
  xlen : BitVec 16
  sym : Sym
  deriving DecidableEq, Repr

/-- The working registers at reset: the spec gives no value (R49), the model takes 0 (log 9). -/
def WorkRegs.zero : WorkRegs where
  storedLen := 0
  storedNlen := 0
  matchLen := 0
  matchDist := 0
  hlit := 0
  hdist := 0
  hclen := 0
  ncodes := 0
  li := 0
  rep := 0
  flg := 0
  xlen := 0
  sym := 0

/-- One step of the host's, in the order the host makes them (R275; log 12). -/
inductive HostMove where
  /-- The host does nothing while the core takes one step. -/
  | idle
  /-- A register read of `bytes` bytes at a host address (R39, R46). -/
  | regRead (addr : Word) (bytes : Nat)
  /-- A register write of `bytes` bytes at a host address (R39, R46). -/
  | regWrite (addr : Word) (bytes : Nat) (value : Word)
  /-- The host reads one byte of its memory. -/
  | memRead (addr : Word)
  /-- The host writes one byte of its memory. -/
  | memWrite (addr : Word) (value : Byte)
  /-- Power-on reset (R270, R275). -/
  | powerOn
  deriving DecidableEq, Repr

/-- The state. -/
structure State where
  /-- CORE_BASE, a parameter (R9, R39; log 16). -/
  coreBase : Word
  /-- HOST_ADDR_W, a parameter, at most 32 (R9; log 16). -/
  hostAddrW : Fin 33
  /-- IN_BASE (R42). -/
  inBase : Word
  /-- IN_LEN (R42). -/
  inLen : Word
  /-- OUT_BASE (R43). -/
  outBase : Word
  /-- OUT_CAP (R43). -/
  outCap : Word
  /-- `state` (R37). -/
  state : SessionState
  /-- `class` (R37). -/
  cls : StopClass
  /-- `kind` (R37). -/
  kind : BitVec 4
  /-- `detail` (R37). -/
  detail : BitVec 1
  /-- `phase` (R35). -/
  phase : Phase
  /-- `is_final` (R33). -/
  isFinal : BitVec 1
  /-- `btype` (R33). -/
  btype : BitVec 2
  /-- `in_pos` (R22). -/
  inPos : Word
  /-- `bitbuf` (R23). -/
  bitbuf : Byte
  /-- `bitcnt` (R24). -/
  bitcnt : BitVec 4
  /-- `ring` (R25). -/
  ring : Store Byte
  /-- `wcur` (R26). -/
  wcur : BitVec 15
  /-- `emitted` (R27). -/
  emitted : BitVec 16
  /-- `out_pos` (R28). -/
  outPos : Word
  /-- `LT` (R30). -/
  lt : Table
  /-- `DT` (R30). -/
  dt : Table
  /-- `CT` (R30). -/
  ct : Table
  /-- `lens` (R32). -/
  lens : Store (BitVec 4)
  /-- `act_lt` (R36). -/
  actLt : TableSel
  /-- `act_dt` (R36). -/
  actDt : TableSel
  /-- The working registers (R34). -/
  work : WorkRegs
  /-- `crc_field` (R38). -/
  crcField : Word
  /-- `isize_field` (R38). -/
  isizeField : Word
  /-- Host memory, by host address; IN and OUT are windows onto it (R60, R76; log 3). -/
  mem : Store Byte
  /-- Address ranges (first, past the last) whose bytes a failed stop left with any value (R77; log 5), newest first. -/
  lost : List (Nat × Nat)
  /-- Which element comes next (log 19). -/
  slot : Slot
  /-- The loop variable of R197 between two CLL elements (log 19). -/
  ci : Fin 19
  /-- The host's moves still to come (log 12). -/
  host : List HostMove
  /-- What the host's last read returned (log 12). -/
  busData : Word
  /-- The output ranges the host may not rely on yet (R72; log 14), newest first. -/
  unseen : List (Nat × Nat)
  /-- The phases held since the session started (R41; log 11). -/
  phasesHeld : List Phase
  /-- How many sessions have started; it indexes their free values (log 25). -/
  session : Nat
  /-- How many choices the host's reads have drawn (log 25). -/
  freeCount : Nat
  deriving DecidableEq, Repr

/-- Why a session stops before its end: the failures of R241 and the faults of R250. Either is a NEXT state, the one
stop entry (R252) leaves. -/
inductive Stop where
  | badMagic
  | unsupportedMethod
  | storedLengthMismatch
  | reservedBlockType
  /-- Input exhausted: code 5, detail 0 (R246). -/
  | truncatedIn
  /-- Output full: code 5, detail 1 (R247). -/
  | truncatedOut
  | huffmanNoSymbol
  | invalidLengthSymbol
  | invalidDistanceSymbol
  | distanceBeyondHistory
  | repeatWithoutPrevious
  | codeLengthOverrun
  deriving DecidableEq, Repr

/-- Where the model stops: in states that no run reaches. -/
inductive Fault where
  /-- Raised by the fetch of a BUSY core when the value at its slot is no element (`decode` gives `why`). Safe: a table
  of a session holds only symbols of its alphabet and a BUSY core is never at `Slot.rest` (log 21). -/
  | notAnElement (why : DecodeError)
  deriving DecidableEq, Repr

/-- What has no meaning in the model: host moves the spec gives no effect (93_implementation_defined.md A1 to A4). -/
inductive Refusal where
  /-- An instruction the model does not cover yet; raised by no arm of this model. Safe. -/
  | notModelled (mnemonic : String)
  /-- A register access that is not an aligned 32-bit one, or a byte access of the register block: raised by the host
  moves `regRead`, `regWrite`, `memRead`, `memWrite` (R46, A1). Safe. -/
  | narrowRegisterAccess
  /-- A `regRead` or `regWrite` at an address outside the register block: no access of this core (R39). Safe. -/
  | notARegister
  /-- A host write of the input region while BUSY (R74, R275, A2). Safe. -/
  | inputWrittenWhileBusy
  /-- A host access of the output region while BUSY (R72, R275, A2). Safe. -/
  | outputAccessedWhileBusy
  /-- START with a region that runs past the top of the host address space (R76, A4). Safe. -/
  | regionWraps
  /-- START with overlapping regions (R75, A3). Safe. -/
  | regionsOverlap
  deriving DecidableEq, Repr

/-- Power-on reset (R49, R270): every value the spec states, and for the rest the values of log 9, 16, 19 and 25. The
host has no move pending and its memory lists nothing. -/
def State.reset : State where
  coreBase := 0
  hostAddrW := 32
  inBase := 0
  inLen := 0
  outBase := 0
  outCap := 0
  state := .idle
  cls := .failure
  kind := 0
  detail := 0
  phase := .idle
  isFinal := 0
  btype := 0
  inPos := 0
  bitbuf := 0
  bitcnt := 0
  ring := []
  wcur := 0
  emitted := 0
  outPos := 0
  lt := Table.empty
  dt := Table.empty
  ct := Table.empty
  lens := []
  actLt := .fixed
  actDt := .fixed
  work := WorkRegs.zero
  crcField := 0
  isizeField := 0
  mem := []
  lost := []
  slot := .rest
  ci := 0
  host := []
  busData := 0
  unseen := []
  phasesHeld := []
  session := 0
  freeCount := 0

end Sys2Proof.Machine
end

