-- ==== Sys2Proof/Machine/Memory.lean ====
section
/-! DEFINITION. The one representation of memory (host memory, the ring, `lens`): reading, writing and forgetting an
entry, the canonical form, and what an unlisted index reads as. -/

namespace Sys2Proof.Machine

/-- The value written at index `a`, `none` where nothing is listed. -/
def Memory.get? {α : Type} : Store α → Nat → Option α
  | [], _ => none
  | (k, v) :: m, a => if k = a then some v else Memory.get? m a

/-- The memory with `v` written at `a`, in its place in the order. -/
def Memory.set {α : Type} : Store α → Nat → α → Store α
  | [], a, v => [(a, v)]
  | (k, w) :: m, a, v =>
    if a < k then (a, v) :: (k, w) :: m
    else if a = k then (a, v) :: m
    else (k, w) :: Memory.set m a v

/-- The memory with `v` written at `a .. a+n-1`, in rising order. -/
def Memory.fill {α : Type} : (n : Nat) → (a : Nat) → α → Store α → Store α
  | 0, _, _, m => m
  | n + 1, a, v, m => Memory.fill n (a + 1) v (Memory.set m a v)

/-- The memory in which the indexes `lo .. hi-1` hold no written value. -/
def Memory.forget {α : Type} (m : Store α) (lo hi : Nat) : Store α :=
  m.filter fun c => decide (c.1 < lo) || decide (hi ≤ c.1)

/-- The canonical form: indexes strictly rising. An unlisted index reads as a free value, which no listed value is known
to equal, so there is no further condition. -/
abbrev Memory.wf {α : Type} (m : Store α) : Prop := (m.map Prod.fst).Pairwise (· < ·)

/-- In which epoch the contents of host address `a` stand: 0 at power-on, else the number of the newest failed stop
that left them with any value (R77). -/
def epochOf : List (Nat × Nat) → Nat → Nat
  | [], _ => 0
  | r :: rs, a => if r.1 ≤ a ∧ a < r.2 then rs.length + 1 else epochOf rs a

/-- The byte of host memory at address `a`: the one written last, or, where nothing is listed, a free value. -/
def State.hostByte (s : State) (a : Nat) : Byte :=
  (Memory.get? s.mem a).getD (Config.hostByte (epochOf s.lost a) a)

/-- MemRead(IN, a, 1) (R11, R76): input offset `a` is host address IN_BASE + a, a plain byte of host memory at an address
of the register block too (log 27). -/
def State.inByte (s : State) (a : Nat) : Byte := s.hostByte (s.inBase.toNat + a)

/-- The byte of the output space at offset `a`, host address OUT_BASE + a (R43, R76). The core never reads it (R62). -/
def State.outByte (s : State) (a : Nat) : Byte := s.hostByte (s.outBase.toNat + a)

/-- MemWrite(OUT, a, 1, b) (R11, R76): a plain byte of host memory, at an address of the register block too (log 27). -/
def State.writeOut (s : State) (a : Nat) (b : Byte) : State :=
  { s with mem := Memory.set s.mem (s.outBase.toNat + a) b }

/-- `ring[i]` (R25): a slot EMIT has not written in the session holds a free value. -/
def State.ringByte (s : State) (i : Nat) : Byte :=
  (Memory.get? s.ring i).getD (Config.ringByte s.session i)

/-- `lens[i]` (R32): an entry not written in the session holds a free value. -/
def State.codeLen (s : State) (i : Nat) : BitVec 4 :=
  (Memory.get? s.lens i).getD (Config.codeLen s.session i)

/-- `lens[i] <- v`. -/
def State.setCodeLen (s : State) (i : Nat) (v : BitVec 4) : State :=
  { s with lens := Memory.set s.lens i v }

/-- `lens[a .. a+n-1]`. -/
def State.codeLens (s : State) (a n : Nat) : List (BitVec 4) :=
  (List.range' a n).map s.codeLen

end Sys2Proof.Machine
end

