-- ==== Sys2Proof/Machine/Ops.lean ====
section
/-! DEFINITION. The shared operations: how a micro-operation ends (`Res`), stop entry (R252), the Bit Reader
(40_bit_reader.md), the ring (42_ring_buffer.md). -/

namespace Sys2Proof.Machine

/-- How a micro-operation ends (R11): with a value and the state it leaves, or by raising a stop, with the state at the
raise (R253). -/
inductive Res (α : Type) where
  | ok (a : α) (s : State)
  | stop (r : Stop) (s : State)
  deriving DecidableEq, Repr

/-- Sequencing: a raise ends the pseudocode that raised it and every caller of it (R11). -/
def Res.bind {α β : Type} (x : Res α) (f : α → State → Res β) : Res β :=
  match x with
  | .ok a s => f a s
  | .stop r s => .stop r s

/-- `class` of a stop (R241, R250). -/
def Stop.cls : Stop → StopClass
  | .badMagic | .unsupportedMethod | .storedLengthMismatch | .reservedBlockType | .truncatedIn | .truncatedOut => .failure
  | .huffmanNoSymbol | .invalidLengthSymbol | .invalidDistanceSymbol | .distanceBeyondHistory
  | .repeatWithoutPrevious | .codeLengthOverrun => .fault

/-- `kind` of a stop: the codes of R241 and R250. -/
def Stop.kind : Stop → BitVec 4
  | .badMagic => 1
  | .unsupportedMethod => 2
  | .storedLengthMismatch => 3
  | .reservedBlockType => 4
  | .truncatedIn | .truncatedOut => 5
  | .huffmanNoSymbol => 8
  | .invalidLengthSymbol => 9
  | .invalidDistanceSymbol => 10
  | .distanceBeyondHistory => 11
  | .repeatWithoutPrevious => 12
  | .codeLengthOverrun => 13

/-- `detail` of a stop: 1 for a full output, else 0 (R37, R248). -/
def Stop.detail : Stop → BitVec 1
  | .truncatedOut => 1
  | .badMagic | .unsupportedMethod | .storedLengthMismatch | .reservedBlockType | .truncatedIn
  | .huffmanNoSymbol | .invalidLengthSymbol | .invalidDistanceSymbol | .distanceBeyondHistory
  | .repeatWithoutPrevious | .codeLengthOverrun => 0

/-- Stop entry (R252): the outcome registers are written and every other register keeps its value. The output bytes at
`out_pos .. OUT_CAP-1` have any value from now on (R77, R255). -/
def State.enterStop (r : Stop) (s : State) : State :=
  { s with
    state := .failed
    cls := r.cls
    kind := r.kind
    detail := r.detail
    mem := Memory.forget s.mem (s.outBase.toNat + s.outPos.toNat) (s.outBase.toNat + s.outCap.toNat)
    lost := (s.outBase.toNat + s.outPos.toNat, s.outBase.toNat + s.outCap.toNat) :: s.lost }

/-- The end of an element: the next state, by stop entry where the element raised. -/
def Res.finish (x : Res Unit) : Host.Outcome State Fault Refusal :=
  match x with
  | .ok _ s => .next s
  | .stop r s => .next (s.enterStop r)

/-- `phase <- p` (R35), and `p` is one of the phases the session has held (R41). -/
def State.setPhase (p : Phase) (s : State) : State :=
  { s with phase := p, phasesHeld := if p ∈ s.phasesHeld then s.phasesHeld else p :: s.phasesHeld }

/-! ### The Bit Reader -/

/-- READ_BYTE (R120). -/
def readByte (s : State) : Res Byte :=
  if s.inPos < s.inLen then .ok (s.inByte s.inPos.toNat) { s with inPos := s.inPos + 1 }
  else .stop .truncatedIn s

/-- The refill of READ_BIT (R121): a byte is loaded when `bitcnt` is 0, never earlier. -/
def refill (s : State) : Res Unit :=
  if s.bitcnt = 0 then (readByte s).bind fun b s => .ok () { s with bitbuf := b, bitcnt := 8 }
  else .ok () s

/-- READ_BIT (R121). -/
def readBit (s : State) : Res (BitVec 1) :=
  (refill s).bind fun _ s =>
    .ok (s.bitbuf.setWidth 1) { s with bitbuf := s.bitbuf >>> 1, bitcnt := s.bitcnt - 1 }

/-- READ_BITS(n) (R122): the first bit read is bit 0 of the value, so the bits read after it stand one place higher. -/
def readBits : (n : Nat) → State → Res (BitVec 16)
  | 0, s => .ok 0 s
  | n + 1, s =>
    (readBit s).bind fun b s =>
      (readBits n s).bind fun v s => .ok (v <<< 1 ||| b.setWidth 16) s

/-- READ_16LE (R123). -/
def read16LE (s : State) : Res (BitVec 16) :=
  (readByte s).bind fun lo s =>
    (readByte s).bind fun hi s => .ok (hi ++ lo) s

/-- READ_32LE (R124). -/
def read32LE (s : State) : Res Word :=
  (readByte s).bind fun b0 s =>
    (readByte s).bind fun b1 s =>
      (readByte s).bind fun b2 s =>
        (readByte s).bind fun b3 s => .ok (b3 ++ b2 ++ b1 ++ b0) s

/-- ALIGN (R125). -/
def align (s : State) : State := { s with bitcnt := 0, bitbuf := 0 }

/-- `n` bytes read and discarded (R225). -/
def skipBytes : (n : Nat) → State → Res Unit
  | 0, s => .ok () s
  | n + 1, s => (readByte s).bind fun _ s => skipBytes n s

/-- Bytes read and discarded up to and including a zero byte (R226), while at most `n` bytes of input are left. With
none left READ_BYTE raises Truncated, so the bound cuts nothing off. -/
def skipZeroTerminatedWithin : (n : Nat) → State → Res Unit
  | 0, s => .stop .truncatedIn s
  | n + 1, s =>
    (readByte s).bind fun b s => if b = 0 then .ok () s else skipZeroTerminatedWithin n s

/-- `repeat: b <- READ_BYTE() until b = 0` (R226, R227). -/
def skipZeroTerminated (s : State) : Res Unit :=
  skipZeroTerminatedWithin (s.inLen.toNat - s.inPos.toNat) s

/-! ### The output ring -/

/-- The writes of EMIT (R160), once the output has room. -/
def State.push (b : Byte) (s : State) : State :=
  { s.writeOut s.outPos.toNat b with
    ring := Memory.set s.ring s.wcur.toNat b
    wcur := s.wcur + 1
    outPos := s.outPos + 1
    emitted := if s.emitted < 32768 then s.emitted + 1 else 32768 }

/-- EMIT(b) (R160): the check comes before any write. -/
def emit (b : Byte) (s : State) : Res Unit :=
  if s.outPos < s.outCap then .ok () (s.push b) else .stop .truncatedOut s

/-- The ring index COPY_BACK reads: `(wcur + 32768 - d) mod 32768` (R161, R63). -/
def copySource (s : State) (d : BitVec 16) : Nat := (s.wcur.toNat + 32768 - d.toNat) % 32768

/-- COPY_BACK(d) (R161). -/
def copyBack (d : BitVec 16) (s : State) : Res Unit := emit (s.ringByte (copySource s d)) s

/-- `n` copies at one distance (R173): each reads after the one before it has been emitted (R163). -/
def copyMatch : (n : Nat) → (d : BitVec 16) → State → Res Unit
  | 0, _, s => .ok () s
  | n + 1, d, s => (copyBack d s).bind fun _ s => copyMatch n d s

/-- `for k in 1..n: EMIT(READ_BYTE())` (R192). -/
def copyStored : (n : Nat) → State → Res Unit
  | 0, s => .ok () s
  | n + 1, s => (readByte s).bind fun b s => (emit b s).bind fun _ s => copyStored n s

end Sys2Proof.Machine
end

