-- ==== Sys2Proof/Machine/Flags.lean ====
section
/-! DEFINITION. The core has no condition codes (R48). The flags there are: the FLG byte of the container (R82), which
selects the optional fields, and `is_final` (R33), which each block header writes and the driver loop reads. -/

namespace Sys2Proof.Machine

/-- FHCRC, FLG bit 1 (R82; the position is general knowledge, log 24). -/
def flgHcrc (flg : Byte) : Bool := flg.getLsbD 1

/-- FEXTRA, FLG bit 2 (R82; log 24). -/
def flgExtra (flg : Byte) : Bool := flg.getLsbD 2

/-- FNAME, FLG bit 3 (R82; log 24). -/
def flgName (flg : Byte) : Bool := flg.getLsbD 3

/-- FCOMMENT, FLG bit 4 (R82; log 24). -/
def flgComment (flg : Byte) : Bool := flg.getLsbD 4

/-- What follows the comment (R220, steps 8 and 9). -/
def afterComment (flg : Byte) : Slot := if flgHcrc flg then .hcrc else .blockHeader

/-- What follows the name (R220, step 7). -/
def afterName (flg : Byte) : Slot := if flgComment flg then .comment else afterComment flg

/-- What follows the extra field (R220, step 6). -/
def afterExtra (flg : Byte) : Slot := if flgName flg then .name else afterName flg

/-- What follows the fixed header (R220, step 5). -/
def afterFixed (flg : Byte) : Slot := if flgExtra flg then .extra else afterExtra flg

/-- What follows a block's body (R190, R205): the trailer when `is_final` is 1, else the next block header. -/
def afterBlock (f : BitVec 1) : Slot := if f = 1 then .trailer else .blockHeader

end Sys2Proof.Machine
end

