-- ==== Sys2Proof/Machine/Huffman.lean ====
section
/-! DEFINITION. BUILD, DECODE and the fixed tables (41_huffman.md). -/

namespace Sys2Proof.Machine

/-- How many symbols have code length `L` (R140). -/
def countLen (lens : List (BitVec 4)) (L : Nat) : Nat := lens.countP fun l => l.toNat == L

/-- The symbols of code length `L`, in symbol order, where `first` is the symbol the list starts at. -/
def symbolsOf : (first : Nat) → List (BitVec 4) → (L : Nat) → List Sym
  | _, [], _ => []
  | first, l :: ls, L =>
    if l.toNat = L then BitVec.ofNat 9 first :: symbolsOf (first + 1) ls L else symbolsOf (first + 1) ls L

/-- BUILD(len, m) (R140), `m` the length of the list: how many symbols have each length 1..15, the count of length 0
forced to 0, and the used symbols in order of (length, symbol) (R29). It never checks the lengths (R144). -/
def build (lens : List (BitVec 4)) : Table where
  counts := Vector.ofFn fun L => if L.val = 0 then 0 else BitVec.ofNat 9 (countLen lens L.val)
  symbols := (List.range' 1 15).flatMap (symbolsOf 0 lens)

/-- `T.counts[L]` (R29). -/
def Table.count (T : Table) (L : Nat) : Nat := (T.counts.toList.getD L 0).toNat

/-- `T.symbols[i]` (R29). Past the meaningful symbols it is a free value; no rule reads there (R141). -/
def Table.symbol (T : Table) (i : Nat) : Sym := (T.symbols[i]?).getD (Config.pastSymbol i)

/-- The loop of DECODE (R141) from code length `L` on, with `n` lengths left: `cur` is the integer remainder, `sum` the
symbols counted so far. The code is resolved at the first length at which the remainder is negative
(90_conflicts.md C1). -/
def decodeFrom (T : Table) : (n : Nat) → (L : Nat) → (cur : Int) → (sum : Nat) → State → Res Sym
  | 0, _, _, _, s => .stop .huffmanNoSymbol s
  | n + 1, L, cur, sum, s =>
    (readBit s).bind fun b s =>
      let sum' := sum + T.count L
      let cur' := 2 * cur + b.toNat - T.count L
      if cur' < 0 then .ok (T.symbol (sum' + cur').toNat) s else decodeFrom T n (L + 1) cur' sum' s

/-- DECODE(T) (R141): at most 15 bits. -/
def decodeSymbol (T : Table) (s : State) : Res Sym := decodeFrom T 15 1 0 0 s

/-- The fixed literal/length code lengths (R95). -/
def fixedLitLens : List (BitVec 4) :=
  List.replicate 144 8 ++ List.replicate 112 9 ++ List.replicate 24 7 ++ List.replicate 8 8

/-- The fixed distance code lengths (R95). -/
def fixedDistLens : List (BitVec 4) := List.replicate 30 5

/-- The symbols `a .. a+n-1`. -/
def symbolRange (a n : Nat) : List Sym := (List.range' a n).map (BitVec.ofNat 9)

/-- FL (R31), as the literal constant R142 gives; `Laws/Huffman.lean` proves it is what BUILD makes of R95's lengths. -/
def Table.fixedLit : Table where
  counts := ⟨#[0, 0, 0, 0, 0, 0, 0, 24, 152, 112, 0, 0, 0, 0, 0, 0], rfl⟩
  symbols := symbolRange 256 24 ++ symbolRange 0 144 ++ symbolRange 280 8 ++ symbolRange 144 112

/-- FD (R31), as the literal constant R142 gives. -/
def Table.fixedDist : Table where
  counts := ⟨#[0, 0, 0, 0, 0, 30, 0, 0, 0, 0, 0, 0, 0, 0, 0, 0], rfl⟩
  symbols := symbolRange 0 30

/-- The table `act_lt` selects (R36). -/
def State.litTable (s : State) : Table :=
  match s.actLt with
  | .fixed => Table.fixedLit
  | .dynamic => s.lt

/-- The table `act_dt` selects (R36). -/
def State.distTable (s : State) : Table :=
  match s.actDt with
  | .fixed => Table.fixedDist
  | .dynamic => s.dt

end Sys2Proof.Machine
end

