-- ==== Sys2Proof/Machine/Operands.lean ====
section
/-! DEFINITION. The operand forms: the value a base and an extra-bits field make (R92, R94, R100), the order of the
code-length code lengths (R89), and the block header (R85, R191). -/

namespace Sys2Proof.Machine

/-- `base + READ_BITS(n)` (R92, R94, R90, R100). -/
def readBased (base n : Nat) (s : State) : Res Nat := (readBits n s).bind fun v s => .ok (base + v.toNat) s

/-- PERM (R89). -/
def permTable : Vector Nat 19 := ⟨#[16, 17, 18, 0, 8, 7, 9, 6, 10, 5, 11, 4, 12, 3, 13, 2, 14, 1, 15], rfl⟩

/-- `PERM[i]` (R89). -/
def perm (i : Fin 19) : Nat := permTable[i]

/-- BLOCK_HEADER (R191): `is_final` is written before BTYPE is read. The value has BFINAL in bit 0 and BTYPE in bits
2:1. -/
def readBlockHeader (s : State) : Res (BitVec 3) :=
  (readBit (s.setPhase .blockHeader)).bind fun f s =>
    (readBits 2 { s with isFinal := f }).bind fun t s =>
      .ok (t.setWidth 2 ++ f) { s with btype := t.setWidth 2 }

end Sys2Proof.Machine
end

