-- ==== Sys2Proof/Machine/Container.lean ====
section
/-! DEFINITION. The meanings of the gzip container's elements (45_gzip_container.md). Each runs its rule's pseudocode and
leaves the control point at what R220 runs next. -/

namespace Sys2Proof.Machine

/-- MAGIC (R221): each byte is compared as soon as it is read. -/
def execMagic (s : State) : Host.Outcome State Fault Refusal :=
  ((readByte s).bind fun id1 s =>
    if id1 ≠ 0x1F then .stop .badMagic s
    else (readByte s).bind fun id2 s =>
      if id2 ≠ 0x8B then .stop .badMagic s else .ok () { s with slot := .method }).finish

/-- METHOD (R222). -/
def execMethod (s : State) : Host.Outcome State Fault Refusal :=
  ((readByte s).bind fun cm s =>
    if cm ≠ 8 then .stop .unsupportedMethod s else .ok () { s with slot := .flags }).finish

/-- FLAGS (R223). -/
def execFlags (s : State) : Host.Outcome State Fault Refusal :=
  ((readByte s).bind fun flg s =>
    .ok () { s with work := { s.work with flg := flg }, slot := .skipFixed }).finish

/-- SKIP_FIXED (R224): MTIME, XFL and OS are discarded. -/
def execSkipFixed (s : State) : Host.Outcome State Fault Refusal :=
  ((read32LE s).bind fun _ s =>
    (readByte s).bind fun _ s =>
      (readByte s).bind fun _ s => .ok () { s with slot := afterFixed s.work.flg }).finish

/-- EXTRA (R225). -/
def execExtra (s : State) : Host.Outcome State Fault Refusal :=
  ((read16LE s).bind fun n s =>
    (skipBytes n.toNat { s with work := { s.work with xlen := n } }).bind fun _ s =>
      .ok () { s with slot := afterExtra s.work.flg }).finish

/-- NAME (R226). -/
def execName (s : State) : Host.Outcome State Fault Refusal :=
  ((skipZeroTerminated s).bind fun _ s => .ok () { s with slot := afterName s.work.flg }).finish

/-- COMMENT (R227). -/
def execComment (s : State) : Host.Outcome State Fault Refusal :=
  ((skipZeroTerminated s).bind fun _ s => .ok () { s with slot := afterComment s.work.flg }).finish

/-- HCRC (R228): read and discarded. -/
def execHcrc (s : State) : Host.Outcome State Fault Refusal :=
  ((read16LE s).bind fun _ s => .ok () { s with slot := .blockHeader }).finish

/-- FINISH (R233): Success. -/
def State.succeed (s : State) : State :=
  { s.setPhase .sessionEnd with state := .done, cls := .failure, kind := 0, detail := 0, slot := .rest }

/-- TRAILER (R230, R231), then FINISH (R233). The bits left in `bitbuf` are abandoned: the reads are of whole bytes. -/
def execTrailer (s : State) : Host.Outcome State Fault Refusal :=
  ((read32LE (s.setPhase .trailer)).bind fun crc s =>
    (read32LE { s with crcField := crc }).bind fun isize s =>
      .ok () (State.succeed { s with isizeField := isize })).finish

end Sys2Proof.Machine
end

