-- ==== Sys2Proof/Machine/Blocks.lean ====
section
/-! DEFINITION. The meanings of the block headers and of the stored body (44_deflate_block.md, sections 1 and 2). A block
header element carries BFINAL as its operand `f`; BTYPE is the row's own. -/

namespace Sys2Proof.Machine

/-- What the block header writes (R191): `is_final` and `btype`. -/
def State.setBlock (f : BitVec 1) (t : BitVec 2) (s : State) : State := { s with isFinal := f, btype := t }

/-- The start of EXPAND (R170) against the selected tables (R36). -/
def State.startExpand (sel : TableSel) (s : State) : State :=
  { s.setPhase .huffman with actLt := sel, actDt := sel, slot := .litLen }

/-- BLOCK_STORED (R191, R192): the body, from ALIGN on, is the element STORED_LEN. -/
def execBlockStored (f : BitVec 1) (s : State) : Host.Outcome State Fault Refusal :=
  .next { (s.setBlock f 0).setPhase .stored with slot := .storedLen }

/-- BLOCK_FIXED (R191, R193). -/
def execBlockFixed (f : BitVec 1) (s : State) : Host.Outcome State Fault Refusal :=
  .next ((s.setBlock f 1).startExpand .fixed)

/-- BLOCK_DYNAMIC (R191, R194). -/
def execBlockDynamic (f : BitVec 1) (s : State) : Host.Outcome State Fault Refusal :=
  .next { (s.setBlock f 2).setPhase .dynTables with slot := .dynHdr }

/-- BLOCK_RESERVED (R191, R195): Failure ReservedBlockType, nothing more is read. -/
def execBlockReserved (f : BitVec 1) (s : State) : Host.Outcome State Fault Refusal :=
  (Res.stop .reservedBlockType (s.setBlock f 3)).finish

/-- STORED_LEN (R192): ALIGN, LEN, NLEN, the check, then the data, each byte read and then emitted. -/
def execStoredLen (s : State) : Host.Outcome State Fault Refusal :=
  ((read16LE (align s)).bind fun len s =>
    (read16LE { s with work := { s.work with storedLen := len } }).bind fun nlen s =>
      let s := { s with work := { s.work with storedNlen := nlen } }
      if nlen ≠ ~~~len then .stop .storedLengthMismatch s
      else (copyStored len.toNat s).bind fun _ s => .ok () { s with slot := afterBlock s.isFinal }).finish

end Sys2Proof.Machine
end

