-- ==== Sys2Proof/Machine/DynTables.lean ====
section
/-! DEFINITION. The meanings of the dynamic table description's elements (44_deflate_block.md, section 3). -/

namespace Sys2Proof.Machine

/-- Table split and build (R204), then the expander against the two tables (R194). -/
def State.buildTables (s : State) : State :=
  State.startExpand .dynamic
    { s with
      lt := build (s.codeLens 0 (s.work.hlit.toNat + 257))
      dt := build (s.codeLens (s.work.hlit.toNat + 257) (s.work.hdist.toNat + 1)) }

/-- The loop test of R199: another code length while `li < ncodes`, else the tables. -/
def State.nextCodeLength (s : State) : State :=
  if s.work.li < s.work.ncodes then { s with slot := .clSymbol } else s.buildTables

/-- `for k in 1..n: lens[li] <- v; li <- li + 1` (R200 to R203). -/
def State.pushCodeLens (n : Nat) (v : BitVec 4) (s : State) : State :=
  { s with
    lens := Memory.fill n s.work.li.toNat v s.lens
    work := { s.work with li := s.work.li + BitVec.ofNat 9 n } }

/-- A repeat of `v` whose count is `base + READ_BITS(n)` (R201 to R203): CodeLengthOverrun before any length is written
if it would run past `ncodes`. -/
def repeatLen (base n : Nat) (v : BitVec 4) (s : State) : Res Unit :=
  (readBased base n s).bind fun rep s =>
    let s := { s with work := { s.work with rep := BitVec.ofNat 8 rep } }
    if s.work.ncodes.toNat < s.work.li.toNat + rep then .stop .codeLengthOverrun s
    else .ok () (s.pushCodeLens rep v).nextCodeLength

/-- DYN_HDR (R196), and the zeroing that R197 begins with. -/
def execDynHdr (s : State) : Host.Outcome State Fault Refusal :=
  ((readBits 5 s).bind fun hlit s =>
    (readBits 5 { s with work := { s.work with hlit := hlit.setWidth 5 } }).bind fun hdist s =>
      (readBits 4 { s with work := { s.work with hdist := hdist.setWidth 5 } }).bind fun hclen s =>
        let n := hlit.toNat + 257 + hdist.toNat + 1
        let s := { s with work := { s.work with hclen := hclen.setWidth 4, ncodes := BitVec.ofNat 9 n } }
        .ok () { s with lens := Memory.fill 19 0 0 s.lens, ci := 0, slot := .cll }).finish

/-- After the last CLL: BUILD(CT, lens[0..18], 19) (R198) and the start of the sequence (R199). -/
def State.startCodeLengths (s : State) : State :=
  State.nextCodeLength { s with ct := build (s.codeLens 0 19), work := { s.work with li := 0 }, ci := 0 }

/-- CLL (R197): `hclen + 4` of them come, in the order of PERM. -/
def execCll (s : State) : Host.Outcome State Fault Refusal :=
  ((readBits 3 s).bind fun v s =>
    let s := s.setCodeLen (perm s.ci) (v.setWidth 4)
    if s.ci.val + 1 < s.work.hclen.toNat + 4 then .ok () { s with ci := s.ci + 1, slot := .cll }
    else .ok () s.startCodeLengths).finish

/-- CL_LIT (R200). -/
def execClLit (sym : Sym) (s : State) : Host.Outcome State Fault Refusal :=
  .next (s.pushCodeLens 1 (sym.setWidth 4)).nextCodeLength

/-- CL_REP16 (R201): RepeatWithoutPrevious before the extra bits are read. -/
def execClRep16 (s : State) : Host.Outcome State Fault Refusal :=
  (if s.work.li = 0 then Res.stop .repeatWithoutPrevious s
   else repeatLen 3 2 (s.codeLen (s.work.li.toNat - 1)) s).finish

/-- CL_ZERO17 (R202). -/
def execClZero17 (s : State) : Host.Outcome State Fault Refusal := (repeatLen 3 3 0 s).finish

/-- CL_ZERO18 (R203). -/
def execClZero18 (s : State) : Host.Outcome State Fault Refusal := (repeatLen 11 7 0 s).finish

end Sys2Proof.Machine
end

