-- ==== Sys2Proof/Machine/Expander.lean ====
section
/-! DEFINITION. The meanings of the expander's elements (43_lz77.md). LEN and DIST are the two halves of one match: LEN
makes `match_len`, DIST makes `match_dist`, checks it against the history and copies. The bases and extra-bit counts are
R92's and R94's tables (general knowledge of the spec's writer, log 24). -/

namespace Sys2Proof.Machine

/-- The length half of R173: `match_len <- base + READ_BITS(n)`, then the distance symbol comes. -/
def matchLength (base n : Nat) (s : State) : Host.Outcome State Fault Refusal :=
  ((readBased base n s).bind fun len s =>
    .ok () { s with work := { s.work with matchLen := BitVec.ofNat 9 len }, slot := .dist }).finish

/-- The history check and the copies of a match (R173, R177, R178), then the next literal/length symbol (R170). -/
def runMatch (s : State) : Res Unit :=
  if s.emitted < s.work.matchDist then .stop .distanceBeyondHistory s
  else (copyMatch s.work.matchLen.toNat s.work.matchDist s).bind fun _ s => .ok () { s with slot := .litLen }

/-- The distance half of R173 (R174): `match_dist <- base + READ_BITS(n)`, then the match runs. -/
def matchDistance (base n : Nat) (s : State) : Host.Outcome State Fault Refusal :=
  ((readBased base n s).bind fun d s =>
    runMatch { s with work := { s.work with matchDist := BitVec.ofNat 16 d } }).finish

/-- LIT (R171): emits `sym[7:0]`. -/
def execLit (sym : Sym) (s : State) : Host.Outcome State Fault Refusal :=
  ((emit (sym.setWidth 8) s).bind fun _ s => .ok () { s with slot := .litLen }).finish

/-- EOB (R172): back to the block driver (R190); the bits left in `bitbuf` stay. -/
def execEob (s : State) : Host.Outcome State Fault Refusal := .next { s with slot := afterBlock s.isFinal }

/-- INVALID_LEN (R175): Fault InvalidLengthSymbol, before any extra bit is read; `sym` is 286 or 287. -/
def execInvalidLen (_sym : Sym) (s : State) : Host.Outcome State Fault Refusal :=
  (Res.stop .invalidLengthSymbol s).finish

/-- INVALID_DIST (R176): Fault InvalidDistanceSymbol, before any extra bit is read; `sym` is 30 or 31. -/
def execInvalidDist (_sym : Sym) (s : State) : Host.Outcome State Fault Refusal :=
  (Res.stop .invalidDistanceSymbol s).finish

/-- LEN_257 (R173, R92): lengths 3..3. -/
def execLen257 (s : State) : Host.Outcome State Fault Refusal := matchLength 3 0 s

/-- LEN_258 (R173, R92): lengths 4..4. -/
def execLen258 (s : State) : Host.Outcome State Fault Refusal := matchLength 4 0 s

/-- LEN_259 (R173, R92): lengths 5..5. -/
def execLen259 (s : State) : Host.Outcome State Fault Refusal := matchLength 5 0 s

/-- LEN_260 (R173, R92): lengths 6..6. -/
def execLen260 (s : State) : Host.Outcome State Fault Refusal := matchLength 6 0 s

/-- LEN_261 (R173, R92): lengths 7..7. -/
def execLen261 (s : State) : Host.Outcome State Fault Refusal := matchLength 7 0 s

/-- LEN_262 (R173, R92): lengths 8..8. -/
def execLen262 (s : State) : Host.Outcome State Fault Refusal := matchLength 8 0 s

/-- LEN_263 (R173, R92): lengths 9..9. -/
def execLen263 (s : State) : Host.Outcome State Fault Refusal := matchLength 9 0 s

/-- LEN_264 (R173, R92): lengths 10..10. -/
def execLen264 (s : State) : Host.Outcome State Fault Refusal := matchLength 10 0 s

/-- LEN_265 (R173, R92): lengths 11..12. -/
def execLen265 (s : State) : Host.Outcome State Fault Refusal := matchLength 11 1 s

/-- LEN_266 (R173, R92): lengths 13..14. -/
def execLen266 (s : State) : Host.Outcome State Fault Refusal := matchLength 13 1 s

/-- LEN_267 (R173, R92): lengths 15..16. -/
def execLen267 (s : State) : Host.Outcome State Fault Refusal := matchLength 15 1 s

/-- LEN_268 (R173, R92): lengths 17..18. -/
def execLen268 (s : State) : Host.Outcome State Fault Refusal := matchLength 17 1 s

/-- LEN_269 (R173, R92): lengths 19..22. -/
def execLen269 (s : State) : Host.Outcome State Fault Refusal := matchLength 19 2 s

/-- LEN_270 (R173, R92): lengths 23..26. -/
def execLen270 (s : State) : Host.Outcome State Fault Refusal := matchLength 23 2 s

/-- LEN_271 (R173, R92): lengths 27..30. -/
def execLen271 (s : State) : Host.Outcome State Fault Refusal := matchLength 27 2 s

/-- LEN_272 (R173, R92): lengths 31..34. -/
def execLen272 (s : State) : Host.Outcome State Fault Refusal := matchLength 31 2 s

/-- LEN_273 (R173, R92): lengths 35..42. -/
def execLen273 (s : State) : Host.Outcome State Fault Refusal := matchLength 35 3 s

/-- LEN_274 (R173, R92): lengths 43..50. -/
def execLen274 (s : State) : Host.Outcome State Fault Refusal := matchLength 43 3 s

/-- LEN_275 (R173, R92): lengths 51..58. -/
def execLen275 (s : State) : Host.Outcome State Fault Refusal := matchLength 51 3 s

/-- LEN_276 (R173, R92): lengths 59..66. -/
def execLen276 (s : State) : Host.Outcome State Fault Refusal := matchLength 59 3 s

/-- LEN_277 (R173, R92): lengths 67..82. -/
def execLen277 (s : State) : Host.Outcome State Fault Refusal := matchLength 67 4 s

/-- LEN_278 (R173, R92): lengths 83..98. -/
def execLen278 (s : State) : Host.Outcome State Fault Refusal := matchLength 83 4 s

/-- LEN_279 (R173, R92): lengths 99..114. -/
def execLen279 (s : State) : Host.Outcome State Fault Refusal := matchLength 99 4 s

/-- LEN_280 (R173, R92): lengths 115..130. -/
def execLen280 (s : State) : Host.Outcome State Fault Refusal := matchLength 115 4 s

/-- LEN_281 (R173, R92): lengths 131..162. -/
def execLen281 (s : State) : Host.Outcome State Fault Refusal := matchLength 131 5 s

/-- LEN_282 (R173, R92): lengths 163..194. -/
def execLen282 (s : State) : Host.Outcome State Fault Refusal := matchLength 163 5 s

/-- LEN_283 (R173, R92): lengths 195..226. -/
def execLen283 (s : State) : Host.Outcome State Fault Refusal := matchLength 195 5 s

/-- LEN_284 (R173, R92): lengths 227..258. -/
def execLen284 (s : State) : Host.Outcome State Fault Refusal := matchLength 227 5 s

/-- LEN_285 (R173, R92): lengths 258..258. -/
def execLen285 (s : State) : Host.Outcome State Fault Refusal := matchLength 258 0 s

/-- DIST_0 (R174, R94): distances 1..1. -/
def execDist0 (s : State) : Host.Outcome State Fault Refusal := matchDistance 1 0 s

/-- DIST_1 (R174, R94): distances 2..2. -/
def execDist1 (s : State) : Host.Outcome State Fault Refusal := matchDistance 2 0 s

/-- DIST_2 (R174, R94): distances 3..3. -/
def execDist2 (s : State) : Host.Outcome State Fault Refusal := matchDistance 3 0 s

/-- DIST_3 (R174, R94): distances 4..4. -/
def execDist3 (s : State) : Host.Outcome State Fault Refusal := matchDistance 4 0 s

/-- DIST_4 (R174, R94): distances 5..6. -/
def execDist4 (s : State) : Host.Outcome State Fault Refusal := matchDistance 5 1 s

/-- DIST_5 (R174, R94): distances 7..8. -/
def execDist5 (s : State) : Host.Outcome State Fault Refusal := matchDistance 7 1 s

/-- DIST_6 (R174, R94): distances 9..12. -/
def execDist6 (s : State) : Host.Outcome State Fault Refusal := matchDistance 9 2 s

/-- DIST_7 (R174, R94): distances 13..16. -/
def execDist7 (s : State) : Host.Outcome State Fault Refusal := matchDistance 13 2 s

/-- DIST_8 (R174, R94): distances 17..24. -/
def execDist8 (s : State) : Host.Outcome State Fault Refusal := matchDistance 17 3 s

/-- DIST_9 (R174, R94): distances 25..32. -/
def execDist9 (s : State) : Host.Outcome State Fault Refusal := matchDistance 25 3 s

/-- DIST_10 (R174, R94): distances 33..48. -/
def execDist10 (s : State) : Host.Outcome State Fault Refusal := matchDistance 33 4 s

/-- DIST_11 (R174, R94): distances 49..64. -/
def execDist11 (s : State) : Host.Outcome State Fault Refusal := matchDistance 49 4 s

/-- DIST_12 (R174, R94): distances 65..96. -/
def execDist12 (s : State) : Host.Outcome State Fault Refusal := matchDistance 65 5 s

/-- DIST_13 (R174, R94): distances 97..128. -/
def execDist13 (s : State) : Host.Outcome State Fault Refusal := matchDistance 97 5 s

/-- DIST_14 (R174, R94): distances 129..192. -/
def execDist14 (s : State) : Host.Outcome State Fault Refusal := matchDistance 129 6 s

/-- DIST_15 (R174, R94): distances 193..256. -/
def execDist15 (s : State) : Host.Outcome State Fault Refusal := matchDistance 193 6 s

/-- DIST_16 (R174, R94): distances 257..384. -/
def execDist16 (s : State) : Host.Outcome State Fault Refusal := matchDistance 257 7 s

/-- DIST_17 (R174, R94): distances 385..512. -/
def execDist17 (s : State) : Host.Outcome State Fault Refusal := matchDistance 385 7 s

/-- DIST_18 (R174, R94): distances 513..768. -/
def execDist18 (s : State) : Host.Outcome State Fault Refusal := matchDistance 513 8 s

/-- DIST_19 (R174, R94): distances 769..1024. -/
def execDist19 (s : State) : Host.Outcome State Fault Refusal := matchDistance 769 8 s

/-- DIST_20 (R174, R94): distances 1025..1536. -/
def execDist20 (s : State) : Host.Outcome State Fault Refusal := matchDistance 1025 9 s

/-- DIST_21 (R174, R94): distances 1537..2048. -/
def execDist21 (s : State) : Host.Outcome State Fault Refusal := matchDistance 1537 9 s

/-- DIST_22 (R174, R94): distances 2049..3072. -/
def execDist22 (s : State) : Host.Outcome State Fault Refusal := matchDistance 2049 10 s

/-- DIST_23 (R174, R94): distances 3073..4096. -/
def execDist23 (s : State) : Host.Outcome State Fault Refusal := matchDistance 3073 10 s

/-- DIST_24 (R174, R94): distances 4097..6144. -/
def execDist24 (s : State) : Host.Outcome State Fault Refusal := matchDistance 4097 11 s

/-- DIST_25 (R174, R94): distances 6145..8192. -/
def execDist25 (s : State) : Host.Outcome State Fault Refusal := matchDistance 6145 11 s

/-- DIST_26 (R174, R94): distances 8193..12288. -/
def execDist26 (s : State) : Host.Outcome State Fault Refusal := matchDistance 8193 12 s

/-- DIST_27 (R174, R94): distances 12289..16384. -/
def execDist27 (s : State) : Host.Outcome State Fault Refusal := matchDistance 12289 12 s

/-- DIST_28 (R174, R94): distances 16385..24576. -/
def execDist28 (s : State) : Host.Outcome State Fault Refusal := matchDistance 16385 13 s

/-- DIST_29 (R174, R94): distances 24577..32768. -/
def execDist29 (s : State) : Host.Outcome State Fault Refusal := matchDistance 24577 13 s

end Sys2Proof.Machine
end

