-- ==== Sys2Proof/Machine/Fetch.lean ====
section
/-! DEFINITION. Fetching the next element: the bits that tell which element it is are read by the micro-operations of the
rules (R191, R199, R170, R173), and a raise among them stops the session. Then one step of the core. -/

namespace Sys2Proof.Machine

/-- DECODE (R141), and `sym` holds the symbol, the last decoded one (R34). -/
def fetchSymbol (T : Table) (s : State) : Res Sym :=
  (decodeSymbol T s).bind fun y s => .ok y { s with work := { s.work with sym := y } }

/-- The next element at the control point, with the state its opcode bits leave (R191, R199, R170, R173). -/
def fetch (s : State) : Res (Except DecodeError Instr) :=
  match s.slot with
  | .blockHeader => (readBlockHeader s).bind fun v s => .ok (decode .blockHeader v.toNat) s
  | .clSymbol => (fetchSymbol s.ct s).bind fun y s => .ok (decode .clSymbol y.toNat) s
  | .litLen => (fetchSymbol s.litTable s).bind fun y s => .ok (decode .litLen y.toNat) s
  | .dist => (fetchSymbol s.distTable s).bind fun y s => .ok (decode .dist y.toNat) s
  | .rest => .ok (decode .rest 0) s
  | .magic => .ok (decode .magic 0) s
  | .method => .ok (decode .method 0) s
  | .flags => .ok (decode .flags 0) s
  | .skipFixed => .ok (decode .skipFixed 0) s
  | .extra => .ok (decode .extra 0) s
  | .name => .ok (decode .name 0) s
  | .comment => .ok (decode .comment 0) s
  | .hcrc => .ok (decode .hcrc 0) s
  | .storedLen => .ok (decode .storedLen 0) s
  | .dynHdr => .ok (decode .dynHdr 0) s
  | .cll => .ok (decode .cll 0) s
  | .trailer => .ok (decode .trailer 0) s

/-- One step of the core: the next element is fetched and runs (R22), a raise of the fetch stops the session (R252), and
a core that is not BUSY holds its state (R254, R263, R270). -/
def coreStep (s : State) : Host.Outcome State Fault Refusal :=
  if s.state = .busy then
    match fetch s with
    | .stop r s => .next (s.enterStop r)
    | .ok (.error why) _ => .fault (.notAnElement why)
    | .ok (.ok i) s => exec i s
  else .next s

end Sys2Proof.Machine
end

