-- ==== Sys2Proof/Machine/HostPort.lean ====
section
/-! DEFINITION. The host's side: the register block (10_state.md, section 7), START (R271), the host's own memory
accesses (R72 to R77) and power-on reset (R270). -/

namespace Sys2Proof.Machine

/-- The code of `state` (R37). -/
def SessionState.code : SessionState → BitVec 2
  | .idle => 0
  | .busy => 1
  | .done => 2
  | .failed => 3

/-- The code of `class` (R37). -/
def StopClass.code : StopClass → BitVec 1
  | .failure => 0
  | .fault => 1

/-- The code of `phase` (R35). -/
def Phase.code : Phase → BitVec 4
  | .idle => 0
  | .gzHeader => 1
  | .blockHeader => 2
  | .stored => 3
  | .dynTables => 4
  | .huffman => 5
  | .trailer => 6
  | .sessionEnd => 7

/-- STATUS (R41), with the PHASE and FINAL_SEEN the read returns. CLASS and KIND are 0 unless STATE is FAILED. -/
def State.statusWord (s : State) (phase : Phase) (final : BitVec 1) : Word :=
  let failed : Bool := s.state = .failed
  (0 : BitVec 15) ++ final ++ phase.code ++ (0 : BitVec 3) ++ s.detail ++ (if failed then s.kind else 0)
    ++ (0 : BitVec 1) ++ (if failed then s.cls.code else 0) ++ s.state.code

/-- STATUS while the core is not BUSY: the current PHASE and FINAL_SEEN (R41). -/
def State.status (s : State) : Word := s.statusWord s.phase s.isFinal

/-- The next free choice (log 11, 25). -/
def State.choose (s : State) : Nat × State := (Config.choice s.freeCount, { s with freeCount := s.freeCount + 1 })

/-- Some phase the session has held (R41). -/
def State.heldPhase (s : State) (n : Nat) : Phase := s.phasesHeld.getD (n % s.phasesHeld.length) s.phase

/-- Some FINAL_SEEN the session has held: 0 since START, and 1 once the final block's header has been read (R41). -/
def State.heldFinal (s : State) (n : Nat) : BitVec 1 := if s.isFinal = 1 then BitVec.ofNat 1 n else 0

/-- Some value a counter that started at 0 and rises by 1 has held (R44). -/
def heldCount (v : Word) (n : Nat) : Word := BitVec.ofNat 32 (n % (v.toNat + 1))

/-- The offset of a host address in the register block (R39), modulo 2^32. DESIGN CHOICE, unsafe: CORE_BASE is OPEN, and
for one within 0xFFF of 2^32 the block goes on at address 0 (log 20). -/
def State.regOffset (s : State) (addr : Word) : Word := addr - s.coreBase

/-- The address lies in the register block, offsets 0x000..0xFFF (R39, R46). DESIGN CHOICE, unsafe: HOST_ADDR_W does not
limit the block, and one that runs past the top of the addresses wraps (log 20). -/
def State.inBlock (s : State) (addr : Word) : Bool := s.regOffset addr < 0x1000

/-- A register access is an aligned 32-bit one (R46). DESIGN CHOICE, unsafe: aligned is measured on the offset in the
block, which differs from the host address when CORE_BASE is no multiple of 4 (log 20). -/
def aligned32 (off : Word) (bytes : Nat) : Bool := bytes = 4 ∧ off.toNat % 4 = 0

/-- A read of STATUS (R41). Once it returns a STATE other than BUSY the output is visible (R72). -/
def State.readStatus (s : State) : State :=
  if s.state = .busy then
    let (n, s) := s.choose
    let (k, s) := s.choose
    { s with busData := s.statusWord (s.heldPhase n) (s.heldFinal k) }
  else { s with busData := s.status, unseen := [] }

/-- A read of IN_POS or OUT_POS (R44). -/
def State.readCount (s : State) (v : Word) : State :=
  if s.state = .busy then
    let (n, s) := s.choose
    { s with busData := heldCount v n }
  else { s with busData := v }

/-- An aligned 32-bit read of the register block (R39 to R46). -/
def State.readReg (s : State) (off : Word) : State :=
  match off.toNat with
  | 0x04 => s.readStatus
  | 0x08 => { s with busData := s.inBase }
  | 0x0C => { s with busData := s.inLen }
  | 0x10 => { s with busData := s.outBase }
  | 0x14 => { s with busData := s.outCap }
  | 0x18 => s.readCount s.inPos
  | 0x1C => s.readCount s.outPos
  | 0x20 => { s with busData := s.crcField }
  | 0x24 => { s with busData := s.isizeField }
  | _ => { s with busData := 0 }

/-- Session start (R50): what START writes, and the stores it leaves with unspecified contents, which become the free
values of the new session (log 6 to 8). `btype`, `act_lt` and `act_dt` are not named by R50 and keep their values. -/
def State.startSession (s : State) : State :=
  let n := s.session + 1
  { s with
    state := .busy
    cls := .failure
    kind := 0
    detail := 0
    phase := .gzHeader
    isFinal := 0
    inPos := 0
    outPos := 0
    bitbuf := 0
    bitcnt := 0
    wcur := 0
    emitted := 0
    crcField := 0
    isizeField := 0
    ring := []
    lens := []
    lt := { counts := Config.startCounts n 0, symbols := Config.startSymbols n 0 }
    dt := { counts := Config.startCounts n 1, symbols := Config.startSymbols n 1 }
    ct := { counts := Config.startCounts n 2, symbols := Config.startSymbols n 2 }
    work :=
      { storedLen := Config.startReg n 0
        storedNlen := Config.startReg n 1
        matchLen := (Config.startReg n 2).setWidth 9
        matchDist := Config.startReg n 3
        hlit := (Config.startReg n 4).setWidth 5
        hdist := (Config.startReg n 5).setWidth 5
        hclen := (Config.startReg n 6).setWidth 4
        ncodes := (Config.startReg n 7).setWidth 9
        li := (Config.startReg n 8).setWidth 9
        rep := (Config.startReg n 9).setWidth 8
        flg := (Config.startReg n 10).setWidth 8
        xlen := Config.startReg n 11
        sym := (Config.startReg n 12).setWidth 9 }
    slot := .magic
    ci := 0
    phasesHeld := [.gzHeader]
    unseen := (s.outBase.toNat, s.outBase.toNat + s.outCap.toNat) :: s.unseen
    session := n }

/-- A region runs past the top of the host address space (R76). -/
def State.regionWraps (s : State) : Bool :=
  2 ^ s.hostAddrW.val < s.inBase.toNat + s.inLen.toNat || 2 ^ s.hostAddrW.val < s.outBase.toNat + s.outCap.toNat

/-- Host address `a` is in the input region (R42). -/
def State.inInput (s : State) (a : Nat) : Bool := s.inBase.toNat ≤ a && a < s.inBase.toNat + s.inLen.toNat

/-- Host address `a` is in the output region (R43). -/
def State.inOutput (s : State) (a : Nat) : Bool := s.outBase.toNat ≤ a && a < s.outBase.toNat + s.outCap.toNat

/-- Some host byte is in both regions (R75). -/
def State.regionsOverlap (s : State) : Bool :=
  s.inLen ≠ 0 && s.outCap ≠ 0 && s.inBase.toNat < s.outBase.toNat + s.outCap.toNat
    && s.outBase.toNat < s.inBase.toNat + s.inLen.toNat

/-- START (R271). A launch with wrapping or overlapping regions is refused (93_implementation_defined.md A3, A4). DESIGN
CHOICE, unsafe: a region that covers addresses of the register block is accepted, and the core's accesses there are of
plain host memory, never of the registers (log 27). -/
def State.start (s : State) : Host.Outcome State Fault Refusal :=
  if s.regionWraps then .refused .regionWraps
  else if s.regionsOverlap then .refused .regionsOverlap
  else .next s.startSession

/-- An aligned 32-bit write of the register block (R39 to R47): while BUSY every write is ignored, and so is a write of
a read-only register or of an unassigned offset; bits 31:1 of CTRL are ignored. -/
def State.writeReg (s : State) (off v : Word) : Host.Outcome State Fault Refusal :=
  if s.state = .busy then .next s
  else
    match off.toNat with
    | 0x00 => if v.getLsbD 0 then s.start else .next s
    | 0x08 => .next { s with inBase := v }
    | 0x0C => .next { s with inLen := v }
    | 0x10 => .next { s with outBase := v }
    | 0x14 => .next { s with outCap := v }
    | _ => .next s

/-- The host reads one byte of its memory: in a range whose bytes are not yet visible the value is free (R72). -/
def State.readMem (s : State) (a : Nat) : State :=
  if s.unseen.any fun r => decide (r.1 ≤ a) && decide (a < r.2) then
    let (n, s) := s.choose
    { s with busData := (BitVec.ofNat 8 n).setWidth 32 }
  else { s with busData := (s.hostByte a).setWidth 32 }

/-- Power-on reset of the core (R270, R49). Host memory, the host's moves and the parameters are not the core's: they
stay (log 15). DESIGN CHOICE, unsafe: of a BUSY core it takes effect between two elements only (log 30). -/
def State.powerOn (s : State) : State :=
  { State.reset with
    coreBase := s.coreBase
    hostAddrW := s.hostAddrW
    mem := s.mem
    lost := s.lost
    host := s.host
    busData := s.busData
    unseen := s.unseen
    session := s.session
    freeCount := s.freeCount }

/-- One move of the host (R275). DESIGN CHOICE, unsafe: an address of 2^HOST_ADDR_W or above is served like any other
(log 20), a host write of an output byte after the session has stopped lands after the core's, also before a STATUS
read has shown the stop (log 28), and a host read of the input region while BUSY is served and returns the byte
(log 29). -/
def hostStep (m : HostMove) (s : State) : Host.Outcome State Fault Refusal :=
  match m with
  | .idle => .next s
  | .regRead addr bytes =>
    if !s.inBlock addr then .refused .notARegister
    else if !aligned32 (s.regOffset addr) bytes then .refused .narrowRegisterAccess
    else .next (s.readReg (s.regOffset addr))
  | .regWrite addr bytes v =>
    if !s.inBlock addr then .refused .notARegister
    else if !aligned32 (s.regOffset addr) bytes then .refused .narrowRegisterAccess
    else s.writeReg (s.regOffset addr) v
  | .memRead addr =>
    if s.inBlock addr then .refused .narrowRegisterAccess
    else if s.state = .busy ∧ s.inOutput addr.toNat then .refused .outputAccessedWhileBusy
    else .next (s.readMem addr.toNat)
  | .memWrite addr b =>
    if s.inBlock addr then .refused .narrowRegisterAccess
    else if s.state = .busy ∧ s.inInput addr.toNat then .refused .inputWrittenWhileBusy
    else if s.state = .busy ∧ s.inOutput addr.toNat then .refused .outputAccessedWhileBusy
    else .next { s with mem := Memory.set s.mem addr.toNat b }
  | .powerOn => .next s.powerOn

end Sys2Proof.Machine
end

