-- ==== Sys2Proof/Machine/Place.lean ====
section
/-! DEFINITION. A state in which a given element is the next one the core fetches: a session under way at that control
point, with the element's bits at the bit cursor (log 17). Used by `State.withFetchWord`. -/

namespace Sys2Proof.Machine

/-- The phase a session is in at a slot (R35). At a block header it is the phase the header read writes. -/
def slotPhase : Slot → Phase
  | .rest => .idle
  | .magic | .method | .flags | .skipFixed | .extra | .name | .comment | .hcrc => .gzHeader
  | .blockHeader => .blockHeader
  | .storedLen => .stored
  | .dynHdr | .cll | .clSymbol => .dynTables
  | .litLen | .dist => .huffman
  | .trailer => .trailer

/-- A table in which each of `m` symbols (at most 32) has the 5-bit code equal to it. -/
def flatTable (m : Nat) : Table := build (List.replicate m 5)

/-- The input bits of the element with value `w` at a slot, under the tables `placeAt` sets. -/
def slotBits (slot : Slot) (nbits w : Nat) : List Bool :=
  match slot with
  | .blockHeader => lsbFirst 3 w
  | .clSymbol => msbFirst 5 w
  | .litLen => fixedLitCode w
  | .dist => msbFirst 5 w
  | .rest | .magic | .method | .flags | .skipFixed | .extra | .name | .comment | .hcrc | .storedLen | .dynHdr | .cll
  | .trailer => lsbFirst nbits w

/-- Bytes written to host memory from address `a` on. -/
def placeBytes : List Byte → Nat → Store Byte → Store Byte
  | [], _, m => m
  | b :: bs, a, m => placeBytes bs (a + 1) (Memory.set m a b)

/-- How many bytes are placed: an element's own and the zeros after it. -/
def placedLength : Nat := 16

/-- The state in which the element with value `w` at `slot` comes next: the session is BUSY at that slot, the bit buffer
is empty, the bytes stand at the input cursor, the tables that decode a symbol there are set, and no host move is
pending. -/
def State.placeAt (slot : Slot) (nbits w : Nat) (s : State) : State :=
  { s.setPhase (slotPhase slot) with
    state := .busy
    slot := slot
    host := []
    bitbuf := 0
    bitcnt := 0
    mem := placeBytes (packBytes placedLength (slotBits slot nbits w)) (s.inBase.toNat + s.inPos.toNat) s.mem
    inLen := s.inPos + BitVec.ofNat 32 placedLength
    ct := if slot = .clSymbol then flatTable 19 else s.ct
    dt := if slot = .dist then flatTable 32 else s.dt
    actLt := if slot = .litLen then .fixed else s.actLt
    actDt := if slot = .dist then .dynamic else s.actDt }

end Sys2Proof.Machine
end

