-- ==== Sys2Proof/Machine/Step.lean ====
section
/-! DEFINITION. One step of the machine: the host's next move, or one element of the core where the host makes none. -/

namespace Sys2Proof.Machine

/-- One step (R275, R279): with no move pending the core steps; `idle` is the host letting it step; every other move is a
step of the host's. DESIGN CHOICE, unsafe: a move lands between two elements, and so does a power-on reset of a BUSY core,
which in a core may cut a match or a stored body in the middle (log 30). -/
def step (s : State) : Host.Outcome State Fault Refusal :=
  match s.host with
  | [] => coreStep s
  | .idle :: rest => coreStep { s with host := rest }
  | m :: rest => hostStep m { s with host := rest }

/-- The state in which the very next step fetches and runs the element a word of the opcode table stands for; unchanged
where the word stands for none (log 17, 18). -/
def State.withFetchWord (s : State) (nbits w : Nat) : State :=
  match tableSlot nbits w with
  | none => s
  | some slot => s.placeAt slot nbits w

end Sys2Proof.Machine
end

