-- ==== Sys2Proof/Safety.lean ====
section
/-! DEFINITION. What counts as a safe run, and the words the statements use: the bits still to come at the bit cursor,
the state after some of them, and the invariants of a session. -/

namespace Sys2Proof.Machine

/-- No fault has been raised (R251): a claim about a session's outcome takes this as a premise, since the source gives a
faulting input no meaning. A failure (class 0) is an architected outcome (R249). -/
abbrev State.Safe (s : State) : Prop := ¬ (s.state = .failed ∧ s.cls = .fault)

/-! ### The input still to come -/

/-- Input bytes not yet loaded (R22). -/
def State.bytesLeft (s : State) : Nat := s.inLen.toNat - s.inPos.toNat

/-- The `k`-th input byte still to come. -/
def State.byteAt (s : State) (k : Nat) : Byte := s.inByte (s.inPos.toNat + k)

/-- The 16-bit little-endian value at the `k`-th byte to come (R64, R123). -/
def State.word16At (s : State) (k : Nat) : BitVec 16 := s.byteAt (k + 1) ++ s.byteAt k

/-- The 32-bit little-endian value at the `k`-th byte to come (R64, R124). -/
def State.word32At (s : State) (k : Nat) : Word :=
  s.byteAt (k + 3) ++ s.byteAt (k + 2) ++ s.byteAt (k + 1) ++ s.byteAt k

/-- The state after `n` bytes have been read by READ_BYTE (R120): only `in_pos` moves. -/
def State.pastBytes (s : State) (n : Nat) : State := { s with inPos := s.inPos + BitVec.ofNat 32 n }

/-- Input bits not yet consumed: those in `bitbuf` and those of the bytes still to come (R21). -/
def State.bitsLeft (s : State) : Nat := s.bitcnt.toNat + 8 * s.bytesLeft

/-- The `k`-th input bit still to come: first those of `bitbuf`, then each byte's from bit 0 up (R23, R65). -/
def State.bitAt (s : State) (k : Nat) : Bool :=
  if k < s.bitcnt.toNat then s.bitbuf.getLsbD k
  else (s.byteAt ((k - s.bitcnt.toNat) / 8)).getLsbD ((k - s.bitcnt.toNat) % 8)

/-- The value of the `n` bits from the `k`-th bit to come on, the first one least significant (R66). -/
def State.field (s : State) : (k n : Nat) → Nat
  | _, 0 => 0
  | k, n + 1 => (s.bitAt k).toNat + 2 * s.field (k + 1) n

/-- The state after `n` bits have been consumed (R126): while `bitbuf` holds them it is shifted; past it, whole bytes
have been loaded and the last of them holds what is left. -/
def State.pastBits (s : State) (n : Nat) : State :=
  if n ≤ s.bitcnt.toNat then { s with bitbuf := s.bitbuf >>> n, bitcnt := s.bitcnt - BitVec.ofNat 4 n }
  else
    let m := n - s.bitcnt.toNat
    let bytes := (m + 7) / 8
    { s with
      inPos := s.inPos + BitVec.ofNat 32 bytes
      bitcnt := BitVec.ofNat 4 (8 * bytes - m)
      bitbuf := s.byteAt (bytes - 1) >>> (8 - (8 * bytes - m)) }

/-- The bits to come start with `code`. -/
def State.startsWith (s : State) (code : List Bool) : Prop := ∀ k, k < code.length → s.bitAt k = code.getD k false

/-- `t` is `s` but for the bit cursor (R21): what a micro-operation of the Bit Reader leaves. -/
def State.SameButCursor (s t : State) : Prop :=
  t = { s with inPos := t.inPos, bitbuf := t.bitbuf, bitcnt := t.bitcnt }

/-- The state in which a micro-operation ends, by a value or by a raise. -/
def Res.state {α : Type} : Res α → State
  | .ok _ s => s
  | .stop _ s => s

/-! ### The output -/

/-- Output bytes that still fit (R28, R43). -/
def State.room (s : State) : Nat := s.outCap.toNat - s.outPos.toNat

/-- The state after `bs` have been emitted in order (R160). -/
def State.pushAll : List Byte → State → State
  | [], s => s
  | b :: bs, s => State.pushAll bs (s.push b)

/-- Host bytes outside the addresses `lo .. hi-1` read in `t` as in `s`. -/
def State.KeptOutside (s t : State) (lo hi : Nat) : Prop :=
  ∀ a, ¬ (lo ≤ a ∧ a < hi) → t.hostByte a = s.hostByte a

/-- What an element that stores nothing leaves of host memory: every byte, unless it ends in a stop, which leaves the
output past `out_pos` with any value (R77, R255). -/
def State.MemoryKept (s t : State) : Prop :=
  (t.state ≠ .failed → ∀ a, t.hostByte a = s.hostByte a) ∧
    s.KeptOutside t (s.outBase.toNat + s.outPos.toNat) (s.outBase.toNat + s.outCap.toNat)

/-- `bs` are the bytes a match of distance `d` emits (R161, R163): the `k`-th is the byte `d` positions before it, from
the ring while that was emitted before the match, from the match itself afterwards. -/
def State.MatchBytes (s : State) (d : Nat) (bs : List Byte) : Prop :=
  ∀ k, k < bs.length →
    bs.getD k 0 = if k < d then s.ringByte ((s.wcur.toNat + 32768 - d + k) % 32768) else bs.getD (k - d) 0

/-! ### The table description -/

/-- `t` is `s` after `n` code lengths `v` have been appended at `li` (R200 to R203): the next element is another
code-length symbol while `li < ncodes` (R199), and else the two tables have been built and the expander starts on them
(R204, R194, R170), HUFFMAN being one of the phases held from then on (R41). Nothing else differs. -/
structure State.CodeLengthsAdded (s t : State) (n : Nat) (v : BitVec 4) : Prop where
  lens : ∀ k, t.codeLen k = if s.work.li.toNat ≤ k ∧ k < s.work.li.toNat + n then v else s.codeLen k
  li : t.work = { s.work with li := s.work.li + BitVec.ofNat 9 n }
  more : s.work.li.toNat + n < s.work.ncodes.toNat →
    t = { s with lens := t.lens, work := t.work, slot := .clSymbol }
  complete : s.work.ncodes.toNat ≤ s.work.li.toNat + n →
    t = { s with
      lens := t.lens, work := t.work, slot := .litLen, phase := .huffman, phasesHeld := t.phasesHeld
      actLt := .dynamic, actDt := .dynamic
      lt := build ((List.range (s.work.hlit.toNat + 257)).map t.codeLen)
      dt := build ((List.range (s.work.hdist.toNat + 1)).map fun k => t.codeLen (s.work.hlit.toNat + 257 + k)) }
  held : s.work.ncodes.toNat ≤ s.work.li.toNat + n → ∀ q, q ∈ t.phasesHeld ↔ q = .huffman ∨ q ∈ s.phasesHeld

/-! ### Power-on -/

/-- The values R49 states for power-on reset, CTRL and STATUS reading 0 with them (R39, R41). -/
structure State.PowerOnValues (s : State) : Prop where
  outcome : s.state = .idle ∧ s.cls = .failure ∧ s.kind = 0 ∧ s.detail = 0
  phase : s.phase = .idle
  block : s.isFinal = 0 ∧ s.btype = 0
  cursors : s.inPos = 0 ∧ s.outPos = 0
  bits : s.bitbuf = 0 ∧ s.bitcnt = 0
  window : s.wcur = 0 ∧ s.emitted = 0
  trailer : s.crcField = 0 ∧ s.isizeField = 0
  regions : s.inBase = 0 ∧ s.inLen = 0 ∧ s.outBase = 0 ∧ s.outCap = 0
  status : s.status = 0

/-- Host address `a` lies in an output range no STATUS read has made visible yet (R72; log 14). -/
def State.Unseen (s : State) (a : Nat) : Prop := ∃ r ∈ s.unseen, r.1 ≤ a ∧ a < r.2

/-! ### Canonical codes (R143) -/

/-- The first code of length `L`: 0 for length 1, then `(first code + count) << 1` (R143). -/
def firstCode (lens : List (BitVec 4)) : (L : Nat) → Nat
  | 0 => 0
  | L + 1 => if L = 0 then 0 else (firstCode lens L + countLen lens L) * 2

/-- The canonical code of symbol `y`: codes of one length are consecutive in symbol order (R143). -/
def canonicalCode (lens : List (BitVec 4)) (y : Nat) : Nat :=
  firstCode lens (lens.getD y 0).toNat + countLen (lens.take y) (lens.getD y 0).toNat

/-- Kraft's inequality (R143): the sum of `2^(-len)` over the used symbols is at most 1, in units of `2^(-15)`. -/
def Kraft (lens : List (BitVec 4)) : Prop :=
  (lens.map fun l => if l.toNat = 0 then 0 else 2 ^ (15 - l.toNat)).sum ≤ 2 ^ 15

/-! ### Invariants -/

/-- Every memory is in its canonical form. -/
structure State.Canonical (s : State) : Prop where
  mem : Memory.wf s.mem
  ring : Memory.wf s.ring
  lens : Memory.wf s.lens

/-- The cursors (R21, R22, R24, R26 to R28): `bitcnt` is 0..7, `emitted` and `wcur` follow `out_pos`, and in a session
neither cursor is past its bound. -/
structure State.CursorsOk (s : State) : Prop where
  bitcnt : s.bitcnt.toNat ≤ 7
  emitted : s.emitted.toNat = min 32768 s.outPos.toNat
  wcur : s.wcur.toNat = s.outPos.toNat % 32768
  inPos : s.state = .busy → s.inPos.toNat ≤ s.inLen.toNat
  outPos : s.state = .busy → s.outPos.toNat ≤ s.outCap.toNat

/-- The outcome registers (R37, R41): a core that is not FAILED shows class 0, kind 0, detail 0, and a FAILED one those of
one of the stops of R241 and R250. -/
structure State.OutcomeOk (s : State) : Prop where
  clear : s.state ≠ .failed → s.cls = .failure ∧ s.kind = 0 ∧ s.detail = 0
  stopped : s.state = .failed → ∃ r : Stop, s.cls = r.cls ∧ s.kind = r.kind ∧ s.detail = r.detail

/-- The regions of a session (R75, R76): they lie in the host's address space and share no byte. -/
structure State.RegionsOk (s : State) : Prop where
  inside : s.state = .busy → s.regionWraps = false
  apart : s.state = .busy → s.regionsOverlap = false

/-- The window (R162): the ring holds the bytes emitted last, as the output does. -/
def State.WindowOk (s : State) : Prop :=
  s.state = .busy → ∀ d, 1 ≤ d → d ≤ s.emitted.toNat →
    s.ringByte ((s.wcur.toNat + 32768 - d) % 32768) = s.outByte (s.outPos.toNat - d)

/-- Which phases a session can be in when an element of a slot comes next (R205, R220, R35). At a block header and at
the trailer it is the phase of what came before. -/
def phaseFits : Slot → Phase → Bool
  | .rest, _ => false
  | .magic, p | .method, p | .flags, p | .skipFixed, p | .extra, p | .name, p | .comment, p | .hcrc, p => p == .gzHeader
  | .blockHeader, p => p == .gzHeader || p == .stored || p == .huffman || p == .blockHeader
  | .storedLen, p => p == .stored
  | .dynHdr, p | .cll, p | .clSymbol, p => p == .dynTables
  | .litLen, p | .dist, p => p == .huffman
  | .trailer, p => p == .stored || p == .huffman || p == .trailer

/-- A built table over an alphabet of `m` symbols (R29): count 0 is 0, the counts add up to the number of meaningful
symbols, and each symbol is one of the alphabet. -/
structure Table.Ok (T : Table) (m : Nat) : Prop where
  zero : T.count 0 = 0
  total : ((List.range 16).map T.count).sum = T.symbols.length
  inRange : ∀ y ∈ T.symbols, y.toNat < m

/-- Where a session stands (R35, R145, R196 to R204): the slot fits the phase, the tables the slot's element is decoded
with are built, and the counters of the table description are in range. -/
structure State.ControlOk (s : State) : Prop where
  phase : s.state = .busy → phaseFits s.slot s.phase = true
  phaseHeld : s.state = .busy → s.phase ∈ s.phasesHeld
  codeLengthTable : s.state = .busy → s.slot = .clSymbol → s.ct.Ok 19
  litTable : s.state = .busy → s.slot = .litLen ∨ s.slot = .dist → s.litTable.Ok 288
  distTable : s.state = .busy → s.slot = .litLen ∨ s.slot = .dist → s.distTable.Ok 32
  codeLengths : s.state = .busy → s.slot = .cll ∨ s.slot = .clSymbol →
    s.work.ncodes.toNat = s.work.hlit.toNat + 257 + s.work.hdist.toNat + 1
  fieldIndex : s.state = .busy → s.slot = .cll → s.ci.val < s.work.hclen.toNat + 4
  index : s.state = .busy → s.slot = .clSymbol → s.work.li < s.work.ncodes
  matchLen : s.state = .busy → s.slot = .dist → 3 ≤ s.work.matchLen.toNat ∧ s.work.matchLen.toNat ≤ 258

end Sys2Proof.Machine
end

