-- ==== Sys2Proof/Certificates/Slice0/Obligations.lean ====
section
/-! DEFINITION. The statements for the provers, each from rules of the spec. Where one speaks of the element that comes
next, slot and ci are the model's control point of the rules' pseudocode (log 19); phasesHeld, lost, unseen, host, busData,
session and freeCount are its own fields too (log 5, 11, 12, 14, 25). -/

open Sys2Proof Sys2Proof.Machine

/-- R92's table: each length element with its base and its number of extra bits. -/
def Sys2Proof.Claims.lengthRows : List (Instr × Nat × Nat) :=
    [(Instr.len257, 3, 0), (Instr.len258, 4, 0), (Instr.len259, 5, 0), (Instr.len260, 6, 0), (Instr.len261, 7, 0),
      (Instr.len262, 8, 0), (Instr.len263, 9, 0), (Instr.len264, 10, 0), (Instr.len265, 11, 1), (Instr.len266, 13, 1),
      (Instr.len267, 15, 1), (Instr.len268, 17, 1), (Instr.len269, 19, 2), (Instr.len270, 23, 2), (Instr.len271, 27, 2),
      (Instr.len272, 31, 2), (Instr.len273, 35, 3), (Instr.len274, 43, 3), (Instr.len275, 51, 3), (Instr.len276, 59, 3),
      (Instr.len277, 67, 4), (Instr.len278, 83, 4), (Instr.len279, 99, 4), (Instr.len280, 115, 4), (Instr.len281, 131, 5),
      (Instr.len282, 163, 5), (Instr.len283, 195, 5), (Instr.len284, 227, 5), (Instr.len285, 258, 0)]

/-- R94's table: each distance element with its base and its number of extra bits. -/
def Sys2Proof.Claims.distanceRows : List (Instr × Nat × Nat) :=
    [(Instr.dist0, 1, 0), (Instr.dist1, 2, 0), (Instr.dist2, 3, 0), (Instr.dist3, 4, 0), (Instr.dist4, 5, 1),
      (Instr.dist5, 7, 1), (Instr.dist6, 9, 2), (Instr.dist7, 13, 2), (Instr.dist8, 17, 3), (Instr.dist9, 25, 3),
      (Instr.dist10, 33, 4), (Instr.dist11, 49, 4), (Instr.dist12, 65, 5), (Instr.dist13, 97, 5), (Instr.dist14, 129, 6),
      (Instr.dist15, 193, 6), (Instr.dist16, 257, 7), (Instr.dist17, 385, 7), (Instr.dist18, 513, 8), (Instr.dist19, 769, 8),
      (Instr.dist20, 1025, 9), (Instr.dist21, 1537, 9), (Instr.dist22, 2049, 10), (Instr.dist23, 3073, 10), (Instr.dist24, 4097, 11),
      (Instr.dist25, 6145, 11), (Instr.dist26, 8193, 12), (Instr.dist27, 12289, 12), (Instr.dist28, 16385, 13), (Instr.dist29, 24577, 13)]

/-- Decoding the encoding of a well-formed element gives that element. (30_encoding.md sections 2, 4, 5,
spec/opcode_table.json) -/
def Obligations.DecodeOfEncodeIsTheInstruction : Prop :=
  ∀ i : Instr, i.WellFormed → decode (encode i).1 (encode i).2 = .ok i

/-- A block header value or symbol decodes to an element exactly when its alphabet has it, and encoding gives the value
back. (30_encoding.md R85, R86, R90, R91, R93, R99) -/
def Obligations.SymbolsDecodeToTheirOwnElement : Prop :=
  (∀ v, (∃ i, decode .blockHeader v = .ok i) ↔ v < 8) ∧
  (∀ v, (∃ i, decode .clSymbol v = .ok i) ↔ v < 19) ∧
  (∀ v, (∃ i, decode .litLen v = .ok i) ↔ v < 288) ∧
  (∀ v, (∃ i, decode .dist v = .ok i) ↔ v < 32) ∧
  ∀ slot v i, slot ∈ [Slot.blockHeader, .clSymbol, .litLen, .dist] → decode slot v = .ok i →
    i.WellFormed ∧ encode i = (slot, v)

/-- Words of the opcode table, written out bit by bit, decode to the elements they stand for. (spec/opcode_table.json,
30_encoding.md R86, R90, R91, R93) That the table words 8 (METHOD) and 8B1F (MAGIC) decode so is the model's choice
of log 18, since the value 8 is CL_LIT 8 and DIST_8 too. -/
def Obligations.TableValuesDecode : Prop :=
  decode .blockHeader 0b101 = .ok (.blockDynamic 1) ∧ decode .clSymbol 0b01000 = .ok (.clLit 8) ∧
  decode .clSymbol 0b10010 = .ok .clZero18 ∧ decode .litLen 0b001000001 = .ok (.lit 65) ∧
  decode .litLen 0b100000000 = .ok .eob ∧ decode .litLen 0b100011101 = .ok .len285 ∧
  decode .litLen 0b100011111 = .ok (.invalidLen 287) ∧ decode .dist 0b11101 = .ok .dist29 ∧
  decode .dist 0b11110 = .ok (.invalidDist 30) ∧ decodeTableWord 16 0x8B1F = some .magic ∧
  decodeTableWord 8 8 = some .method

/-- Each fixed literal/length code decodes against FL to its own symbol and consumes exactly its bits. (30_encoding.md
R96, 41_huffman.md R142) -/
def Obligations.FixedLiteralLengthCodesDecode : Prop :=
  ∀ (s : State) (y : Nat), y ≤ 287 → s.startsWith (fixedLitCode y) → (fixedLitCode y).length ≤ s.bitsLeft →
    decodeSymbol Table.fixedLit s = .ok (BitVec.ofNat 9 y) (s.pastBits (fixedLitCode y).length)

/-- The fixed distance codes 0..29 decode to themselves in 5 bits; 11110 and 11111 fault after 15 bits. (30_encoding.md
R96, 41_huffman.md R141, R144) -/
def Obligations.FixedDistanceCodesDecode : Prop :=
  ∀ s : State,
    (∀ y, y ≤ 29 → s.startsWith (msbFirst 5 y) → 5 ≤ s.bitsLeft →
      decodeSymbol Table.fixedDist s = .ok (BitVec.ofNat 9 y) (s.pastBits 5)) ∧
    (∀ y, y = 30 ∨ y = 31 → s.startsWith (msbFirst 5 y) → 15 ≤ s.bitsLeft →
      decodeSymbol Table.fixedDist s = .stop .huffmanNoSymbol (s.pastBits 15))

/-- For code lengths that respect Kraft, BUILD then DECODE of a symbol's canonical code returns that symbol.
(41_huffman.md R140, R141, R143) -/
def Obligations.CanonicalCodesDecodeToTheirSymbols : Prop :=
  ∀ (lens : List (BitVec 4)) (y : Nat) (s : State), lens.length ≤ 288 → Kraft lens → y < lens.length →
    lens.getD y 0 ≠ 0 → s.startsWith (msbFirst (lens.getD y 0).toNat (canonicalCode lens y)) →
    (lens.getD y 0).toNat ≤ s.bitsLeft →
    decodeSymbol (build lens) s = .ok (BitVec.ofNat 9 y) (s.pastBits (lens.getD y 0).toNat)

/-- A word of the opcode table placed at the bit cursor is what the next step fetches and runs. (00_scope.md R5,
10_state.md R22) This is about the model's own probe and rests on its choices: which row a table word stands for
(log 18) and where it is placed (log 17). -/
def Obligations.PlacedTableWordIsFetchedAndRun : Prop :=
  ∀ (s : State) (nbits w : Nat) (i : Instr), decodeTableWord nbits w = some i →
    s.inPos.toNat + placedLength < 2 ^ 32 →
    ∃ t, fetch (s.withFetchWord nbits w) = .ok (.ok i) t ∧ step (s.withFetchWord nbits w) = exec i t

/-- READ_BYTE returns the input byte at in_pos and advances in_pos by 1; at the end it raises Truncated and changes
nothing. (R120) -/
def Obligations.ReadByteReadsTheByteAtInPos : Prop :=
  ∀ s : State,
    (s.inPos < s.inLen →
      readByte s = .ok (s.hostByte (s.inBase.toNat + s.inPos.toNat)) { s with inPos := s.inPos + 1 }) ∧
    (¬ s.inPos < s.inLen → readByte s = .stop .truncatedIn s)

/-- READ_BITS(n) from bitcnt c loads max(0, ceil((n-c)/8)) bytes and leaves bitcnt = (c-n) mod 8; DECODE the same for
its code length. (40_bit_reader.md R122, R126, 41_huffman.md R141) -/
def Obligations.BitReadsConsumeByTheLaw : Prop :=
  ∀ s : State, s.bitcnt.toNat ≤ 7 →
    (∀ n v t, readBits n s = .ok v t →
      t.inPos.toNat = s.inPos.toNat + (n - s.bitcnt.toNat + 7) / 8 ∧
      t.bitcnt.toNat = (s.bitcnt.toNat + 7 * n) % 8 ∧ s.SameButCursor t) ∧
    (∀ T y t, decodeSymbol T s = .ok y t → ∃ n i, 1 ≤ n ∧ n ≤ 15 ∧
      y = T.symbol i ∧ ((List.range' 1 (n - 1)).map T.count).sum ≤ i ∧ i < ((List.range' 1 n).map T.count).sum ∧
      t.inPos.toNat = s.inPos.toNat + (n - s.bitcnt.toNat + 7) / 8 ∧
      t.bitcnt.toNat = (s.bitcnt.toNat + 7 * n) % 8 ∧ s.SameButCursor t) ∧
    (∀ (lens : List (BitVec 4)) (y : Sym) (t : State) (n : Nat), lens.length ≤ 288 →
      decodeSymbol (build lens) s = .ok y t → n = (lens.getD y.toNat 0).toNat →
      1 ≤ n ∧ t.inPos.toNat = s.inPos.toNat + (n - s.bitcnt.toNat + 7) / 8 ∧
      t.bitcnt.toNat = (s.bitcnt.toNat + 7 * n) % 8 ∧ s.SameButCursor t)

/-- BUILD counts the symbols of each length 1..15 and lists the used symbols once each, in order of (length, symbol).
(R140) -/
def Obligations.BuildSortsTheUsedSymbols : Prop :=
  ∀ lens : List (BitVec 4), lens.length ≤ 288 →
    (build lens).count 0 = 0 ∧
    (∀ L, 1 ≤ L → L ≤ 15 → (build lens).count L = lens.countP fun l => l.toNat == L) ∧
    ((List.range 16).map (build lens).count).sum = (build lens).symbols.length ∧
    (build lens).symbols.length = lens.countP (fun l => l ≠ 0) ∧
    (∀ y : Sym, y ∈ (build lens).symbols ↔ y.toNat < lens.length ∧ lens.getD y.toNat 0 ≠ 0) ∧
    (build lens).symbols.Pairwise fun a b =>
      lens.getD a.toNat 0 < lens.getD b.toNat 0 ∨ (lens.getD a.toNat 0 = lens.getD b.toNat 0 ∧ a < b)

/-- DECODE returns a meaningful symbol of its table after 1 to 15 bits, or stops: no bits left, or 15 bits without a
code. (41_huffman.md R141, 10_state.md R29) -/
def Obligations.DecodeStaysInsideTheTable : Prop :=
  ∀ (T : Table) (m : Nat) (s : State), T.Ok m →
    (∃ y n, y ∈ T.symbols ∧ 1 ≤ n ∧ n ≤ 15 ∧ n ≤ s.bitsLeft ∧ decodeSymbol T s = .ok y (s.pastBits n)) ∨
    (s.bitsLeft < 15 ∧ ∃ t, decodeSymbol T s = .stop .truncatedIn t ∧ t.bitsLeft = 0) ∨
    (15 ≤ s.bitsLeft ∧ decodeSymbol T s = .stop .huffmanNoSymbol (s.pastBits 15))

/-- EMIT(b) writes b to ring[wcur] and OUT[out_pos] and advances the cursors; into a full output it raises Truncated and
writes nothing. (R160) -/
def Obligations.EmitWritesRingAndOutput : Prop :=
  ∀ (b : Byte) (s : State),
    (s.outPos < s.outCap → ∃ t, emit b s = .ok () t ∧
      t = { s with ring := t.ring, mem := t.mem, wcur := t.wcur, outPos := t.outPos, emitted := t.emitted } ∧
      t.wcur.toNat = (s.wcur.toNat + 1) % 32768 ∧ t.outPos.toNat = s.outPos.toNat + 1 ∧
      t.emitted.toNat = min (s.emitted.toNat + 1) 32768 ∧
      (∀ i, t.ringByte i = if i = s.wcur.toNat then b else s.ringByte i) ∧
      (∀ a, t.hostByte a = if a = s.outBase.toNat + s.outPos.toNat then b else s.hostByte a)) ∧
    (¬ s.outPos < s.outCap → emit b s = .stop .truncatedOut s)

/-- Stop entry writes state, class, kind and detail and leaves every other register; emitted output keeps its bytes.
(60_exceptions.md R241, R248, R250, R252, R255, 20_memory.md R77) How the bytes without a value are held (lost) is
the model's choice of log 5. -/
def Obligations.StopEntryRecordsTheStop : Prop :=
  (∀ (r : Stop) (s : State),
      s.enterStop r = { s with state := .failed, cls := r.cls, kind := r.kind, detail := r.detail, mem := (s.enterStop r).mem, lost := (s.enterStop r).lost } ∧
      s.KeptOutside (s.enterStop r) (s.outBase.toNat + s.outPos.toNat) (s.outBase.toNat + s.outCap.toNat)) ∧
    [Stop.badMagic, .unsupportedMethod, .storedLengthMismatch, .reservedBlockType, .truncatedIn, .truncatedOut].map
      (fun r => (r.cls, r.kind, r.detail)) =
      [(.failure, 1, 0), (.failure, 2, 0), (.failure, 3, 0), (.failure, 4, 0), (.failure, 5, 0), (.failure, 5, 1)] ∧
    [Stop.huffmanNoSymbol, .invalidLengthSymbol, .invalidDistanceSymbol, .distanceBeyondHistory,
      .repeatWithoutPrevious, .codeLengthOverrun].map (fun r => (r.cls, r.kind, r.detail)) =
      [(.fault, 8, 0), (.fault, 9, 0), (.fault, 10, 0), (.fault, 11, 0), (.fault, 12, 0), (.fault, 13, 0)]

/-- With no host move pending, a BUSY core's step is exec of the element fetched, on the state the fetch leaves.
(00_scope.md R5, 10_state.md R22, 70_reset_and_hazards.md R279) That one step is one element is the model's choice
of log 1, which R279 allows, and the host's queue with its idle move is that of log 12. -/
def Obligations.StepRunsTheFetchedElement : Prop :=
  ∀ s : State,
    (s.host = [] → s.state = .busy →
      (∀ i t, fetch s = .ok (.ok i) t → step s = exec i t) ∧
      (∀ r t, fetch s = .stop r t → step s = .next (t.enterStop r))) ∧
    (∀ rest, s.host = .idle :: rest → step s = coreStep { s with host := rest }) ∧
    (s.host = [] → step s = coreStep s) ∧
    (s.host = [] → s.state ≠ .busy → step s = .next s)

/-- Fetch at a symbol slot is DECODE with the table in force, then decode of the symbol; elsewhere the slot decides.
(10_state.md R34, 41_huffman.md R141, R144, 43_lz77.md R170, R173, 44_deflate_block.md R199, 45_gzip_container.md
R220, 60_exceptions.md R252) That a fetch and an element make one step is the model's choice of log 1, and the slots
are its control point of log 19. -/
def Obligations.FetchDecodesTheElementAtTheSlot : Prop :=
  ∀ s : State,
    (∀ y t, s.slot = .clSymbol → decodeSymbol s.ct s = .ok y t →
      fetch s = .ok (decode .clSymbol y.toNat) { t with work := { t.work with sym := y } }) ∧
    (∀ y t, s.slot = .litLen → decodeSymbol s.litTable s = .ok y t →
      fetch s = .ok (decode .litLen y.toNat) { t with work := { t.work with sym := y } }) ∧
    (∀ y t, s.slot = .dist → decodeSymbol s.distTable s = .ok y t →
      fetch s = .ok (decode .dist y.toNat) { t with work := { t.work with sym := y } }) ∧
    (∀ r t, (s.slot = .clSymbol ∧ decodeSymbol s.ct s = .stop r t) ∨ (s.slot = .litLen ∧ decodeSymbol s.litTable s = .stop r t) ∨
        (s.slot = .dist ∧ decodeSymbol s.distTable s = .stop r t) →
      fetch s = .stop r t ∧ (s.state = .busy → s.host = [] → step s = .next (t.enterStop r))) ∧
    (s.slot ∈ [Slot.magic, .method, .flags, .skipFixed, .extra, .name, .comment, .hcrc, .storedLen, .dynHdr, .cll,
      .trailer] → ∃ i, decode s.slot 0 = .ok i ∧ fetch s = .ok (.ok i) s)

/-- The block header fetch sets phase, is_final and btype from three bits, LSB first; cut short, it stops with
Truncated. (44_deflate_block.md R191, 10_state.md R41) The record of phases held is the model's form of R41 (log
11). -/
def Obligations.BlockHeaderFetchWritesFinalAndType : Prop :=
  ∀ s : State, s.slot = .blockHeader → ∃ held, (∀ q, q ∈ held ↔ q = .blockHeader ∨ q ∈ s.phasesHeld) ∧
    (3 ≤ s.bitsLeft → fetch s = .ok (decode .blockHeader (s.field 0 3))
      { s.pastBits 3 with phase := .blockHeader, phasesHeld := held, isFinal := BitVec.ofBool (s.bitAt 0), btype := BitVec.ofNat 2 (s.field 1 2) }) ∧
    (1 ≤ s.bitsLeft → s.bitsLeft < 3 → ∃ t, fetch s = .stop .truncatedIn t ∧ t.bitsLeft = 0 ∧
      t.phase = .blockHeader ∧ t.phasesHeld = held ∧ t.isFinal = BitVec.ofBool (s.bitAt 0) ∧ t.btype = s.btype) ∧
    (s.bitsLeft = 0 → fetch s = .stop .truncatedIn { s with phase := .blockHeader, phasesHeld := held })

/-- MAGIC: 1F 8B goes on to METHOD; a wrong byte is BadMagic at that byte; too few bytes are Truncated. (R221) -/
def Obligations.MagicChecksEachByteAsRead : Prop :=
  ∀ s : State,
    (s.bytesLeft = 0 → exec .magic s = .next (s.enterStop .truncatedIn)) ∧
    (1 ≤ s.bytesLeft → s.byteAt 0 ≠ 0x1F → exec .magic s = .next ((s.pastBytes 1).enterStop .badMagic)) ∧
    (s.bytesLeft = 1 → s.byteAt 0 = 0x1F → exec .magic s = .next ((s.pastBytes 1).enterStop .truncatedIn)) ∧
    (2 ≤ s.bytesLeft → s.byteAt 0 = 0x1F → s.byteAt 1 ≠ 0x8B →
      exec .magic s = .next ((s.pastBytes 2).enterStop .badMagic)) ∧
    (2 ≤ s.bytesLeft → s.byteAt 0 = 0x1F → s.byteAt 1 = 0x8B →
      exec .magic s = .next { s.pastBytes 2 with slot := .method })

/-- METHOD: CM 8 goes on to FLAGS, any other is UnsupportedMethod; FLAGS stores FLG, whatever it is; no byte is
Truncated. (45_gzip_container.md R222, R223) -/
def Obligations.MethodAndFlagsReadOneByte : Prop :=
  ∀ s : State,
    (s.bytesLeft = 0 → exec .method s = .next (s.enterStop .truncatedIn) ∧ exec .flags s = .next (s.enterStop .truncatedIn)) ∧
    (1 ≤ s.bytesLeft → s.byteAt 0 ≠ 8 → exec .method s = .next ((s.pastBytes 1).enterStop .unsupportedMethod)) ∧
    (1 ≤ s.bytesLeft → s.byteAt 0 = 8 → exec .method s = .next { s.pastBytes 1 with slot := .flags }) ∧
    (1 ≤ s.bytesLeft → exec .flags s =
      .next { s.pastBytes 1 with work := { s.work with flg := s.byteAt 0 }, slot := .skipFixed })

/-- SKIP_FIXED reads six bytes, discards them, and goes to the first optional field the flags select, or to the blocks.
(45_gzip_container.md R220, R224, 30_encoding.md R82) -/
def Obligations.SkipFixedReadsSixBytes : Prop :=
  ∀ s : State,
    (6 ≤ s.bytesLeft → exec .skipFixed s = .next { s.pastBytes 6 with slot := if s.work.flg.getLsbD 2 then Slot.extra else if s.work.flg.getLsbD 3 then Slot.name else if s.work.flg.getLsbD 4 then Slot.comment else if s.work.flg.getLsbD 1 then Slot.hcrc else .blockHeader }) ∧
    (s.bytesLeft < 6 → exec .skipFixed s = .next ((s.pastBytes s.bytesLeft).enterStop .truncatedIn))

/-- EXTRA reads XLEN, little-endian, into xlen and discards XLEN bytes; an input that ends before that is Truncated.
(45_gzip_container.md R220, R225, 30_encoding.md R82) -/
def Obligations.ExtraSkipsItsLength : Prop :=
  ∀ s : State,
    (2 ≤ s.bytesLeft → 2 + (s.word16At 0).toNat ≤ s.bytesLeft → exec .extra s =
      .next { s.pastBytes (2 + (s.word16At 0).toNat) with work := { s.work with xlen := s.word16At 0 }, slot := if s.work.flg.getLsbD 3 then Slot.name else if s.work.flg.getLsbD 4 then Slot.comment else if s.work.flg.getLsbD 1 then Slot.hcrc else .blockHeader }) ∧
    (s.bytesLeft < 2 → exec .extra s = .next ((s.pastBytes s.bytesLeft).enterStop .truncatedIn)) ∧
    (2 ≤ s.bytesLeft → s.bytesLeft < 2 + (s.word16At 0).toNat → exec .extra s =
      .next (State.enterStop .truncatedIn { s.pastBytes s.bytesLeft with work := { s.work with xlen := s.word16At 0 } }))

/-- NAME and COMMENT skip through the first zero byte; without one the whole input is read and the stop is Truncated.
(45_gzip_container.md R220, R226, R227, 30_encoding.md R82) -/
def Obligations.NameAndCommentEndAtTheZeroByte : Prop :=
  ∀ s : State,
    (∀ n, n < s.bytesLeft → s.byteAt n = 0 → (∀ k, k < n → s.byteAt k ≠ 0) →
      exec .name s = .next { s.pastBytes (n + 1) with slot := if s.work.flg.getLsbD 4 then Slot.comment else if s.work.flg.getLsbD 1 then Slot.hcrc else .blockHeader } ∧
      exec .comment s = .next { s.pastBytes (n + 1) with slot := if s.work.flg.getLsbD 1 then Slot.hcrc else .blockHeader }) ∧
    ((∀ k, k < s.bytesLeft → s.byteAt k ≠ 0) → exec .name s = .next ((s.pastBytes s.bytesLeft).enterStop .truncatedIn) ∧ exec .comment s = .next ((s.pastBytes s.bytesLeft).enterStop .truncatedIn))

/-- HCRC reads two bytes, compares them with nothing, and goes on to the blocks; fewer bytes are Truncated. (R228) -/
def Obligations.HeaderChecksumIsDiscarded : Prop :=
  ∀ s : State,
    (2 ≤ s.bytesLeft → exec .hcrc s = .next { s.pastBytes 2 with slot := .blockHeader }) ∧
    (s.bytesLeft < 2 → exec .hcrc s = .next ((s.pastBytes s.bytesLeft).enterStop .truncatedIn))

/-- TRAILER latches CRC32 and ISIZE from eight bytes, whatever they are, and the session is DONE; fewer bytes are
Truncated. (45_gzip_container.md R231, R233, 10_state.md R41) The record of phases held is the model's form of R41
(log 11). -/
def Obligations.TrailerIsLatchedAndEndsTheSession : Prop :=
  ∀ s : State, ∃ held held', (∀ q, q ∈ held ↔ q = .sessionEnd ∨ q = .trailer ∨ q ∈ s.phasesHeld) ∧
    (∀ q, q ∈ held' ↔ q = .trailer ∨ q ∈ s.phasesHeld) ∧
    (8 ≤ s.bytesLeft → exec .trailer s = .next { s.pastBytes 8 with crcField := s.word32At 0, isizeField := s.word32At 4, phase := .sessionEnd, phasesHeld := held, state := .done, cls := .failure, kind := 0, detail := 0, slot := .rest }) ∧
    (4 ≤ s.bytesLeft → s.bytesLeft < 8 → exec .trailer s =
      .next (State.enterStop .truncatedIn { s.pastBytes s.bytesLeft with crcField := s.word32At 0, phase := .trailer, phasesHeld := held' })) ∧
    (s.bytesLeft < 4 → exec .trailer s =
      .next (State.enterStop .truncatedIn { s.pastBytes s.bytesLeft with phase := .trailer, phasesHeld := held' }))

/-- The four block header elements write is_final and btype and start the stored body, the fixed expander, the tables,
or a failure. (44_deflate_block.md R191, R192, R193, R194, R195, 10_state.md R41) That the meaning writes is_final
and btype after the fetch has is the model's choice of log 1, the slots are its control point of log 19, and the
record of phases held is the model's form of R41 (log 11). -/
def Obligations.BlockHeadersSelectTheBody : Prop :=
  ∀ (f : BitVec 1) (s : State), ∃ h0 h1 h2,
    (∀ q, (q ∈ h0 ↔ q = .stored ∨ q ∈ s.phasesHeld) ∧ (q ∈ h1 ↔ q = .huffman ∨ q ∈ s.phasesHeld) ∧
      (q ∈ h2 ↔ q = .dynTables ∨ q ∈ s.phasesHeld)) ∧
    exec (.blockStored f) s = .next { s with isFinal := f, btype := 0, phase := .stored, slot := .storedLen, phasesHeld := h0 } ∧
    exec (.blockFixed f) s = .next { s with isFinal := f, btype := 1, actLt := .fixed, actDt := .fixed, phase := .huffman, slot := .litLen, phasesHeld := h1 } ∧
    exec (.blockDynamic f) s = .next { s with isFinal := f, btype := 2, phase := .dynTables, slot := .dynHdr, phasesHeld := h2 } ∧
    exec (.blockReserved f) s = .next (State.enterStop .reservedBlockType { s with isFinal := f, btype := 3 })

/-- STORED_LEN aligns, reads LEN and NLEN and copies exactly LEN bytes from input to ring and output.
(44_deflate_block.md R192, 30_encoding.md R87) -/
def Obligations.StoredBodyIsCopied : Prop :=
  ∀ s : State, s.regionsOverlap = false → 4 ≤ s.bytesLeft → s.word16At 2 = ~~~ s.word16At 0 →
    4 + (s.word16At 0).toNat ≤ s.bytesLeft → (s.word16At 0).toNat ≤ s.room →
    exec .storedLen s = .next
      { State.pushAll ((List.range (s.word16At 0).toNat).map fun k => s.byteAt (4 + k))
          ((align s).pastBytes (4 + (s.word16At 0).toNat)) with
        work := { s.work with storedLen := s.word16At 0, storedNlen := s.word16At 2 }
        slot := if s.isFinal = 1 then .trailer else .blockHeader }

/-- STORED_LEN stops: Truncated before LEN and NLEN are whole, StoredLengthMismatch before any data, else at the first
byte that is missing or does not fit. (44_deflate_block.md R192, 60_exceptions.md R244, R256) -/
def Obligations.StoredBodyStops : Prop :=
  ∀ s : State,
    (s.bytesLeft < 4 → ∃ w, exec .storedLen s =
      .next (State.enterStop .truncatedIn { (align s).pastBytes s.bytesLeft with work := w })) ∧
    (4 ≤ s.bytesLeft → s.word16At 2 ≠ ~~~ s.word16At 0 → exec .storedLen s =
      .next (State.enterStop .storedLengthMismatch
        { (align s).pastBytes 4 with work := { s.work with storedLen := s.word16At 0, storedNlen := s.word16At 2 } })) ∧
    (s.regionsOverlap = false → 4 ≤ s.bytesLeft → s.word16At 2 = ~~~ s.word16At 0 →
      s.bytesLeft < 4 + (s.word16At 0).toNat → s.bytesLeft - 4 ≤ s.room → exec .storedLen s =
      .next (State.enterStop .truncatedIn
        { State.pushAll ((List.range (s.bytesLeft - 4)).map fun k => s.byteAt (4 + k)) ((align s).pastBytes s.bytesLeft) with
          work := { s.work with storedLen := s.word16At 0, storedNlen := s.word16At 2 } })) ∧
    (s.regionsOverlap = false → 4 ≤ s.bytesLeft → s.word16At 2 = ~~~ s.word16At 0 →
      s.room < (s.word16At 0).toNat → s.room < s.bytesLeft - 4 → exec .storedLen s =
      .next (State.enterStop .truncatedOut
        { State.pushAll ((List.range s.room).map fun k => s.byteAt (4 + k)) ((align s).pastBytes (4 + s.room + 1)) with
          work := { s.work with storedLen := s.word16At 0, storedNlen := s.word16At 2 } }))

/-- DYN_HDR reads HLIT (5 bits), HDIST (5) and HCLEN (4), sets ncodes, zeroes the 19 code-length lengths; fewer bits are
Truncated. (44_deflate_block.md R196, R197) That the zeroing with which R197 begins is done by DYN_HDR is the
model's choice of log 1, and ci and the slots are its control point of log 19. -/
def Obligations.DynamicHeaderReadsThreeCounts : Prop :=
  ∀ s : State,
    (14 ≤ s.bitsLeft → ∃ L, exec .dynHdr s = .next { s.pastBits 14 with
        work := { s.work with hlit := BitVec.ofNat 5 (s.field 0 5), hdist := BitVec.ofNat 5 (s.field 5 5), hclen := BitVec.ofNat 4 (s.field 10 4), ncodes := BitVec.ofNat 9 (s.field 0 5 + 257 + s.field 5 5 + 1) }
        lens := L, ci := 0, slot := .cll } ∧
      ∀ k, Memory.get? L k = if k < 19 then some 0 else Memory.get? s.lens k) ∧
    (s.bitsLeft < 14 → ∃ t, exec .dynHdr s = .next t ∧ t.state = .failed ∧ t.cls = .failure ∧ t.kind = 5 ∧ t.detail = 0 ∧ t.bitsLeft = 0)

/-- CLL writes a 3-bit length to lens[PERM[i]]; after field hclen+3 CT is built from lens[0..18]; fewer bits are
Truncated. (44_deflate_block.md R197, R198, 30_encoding.md R89) That one CLL is one field is log 1, and ci and the
slots are the model's control point of log 19. -/
def Obligations.CodeLengthFieldsFollowThePermutation : Prop :=
  ∀ s : State,
    let p := [16, 17, 18, 0, 8, 7, 9, 6, 10, 5, 11, 4, 12, 3, 13, 2, 14, 1, 15].getD s.ci.val 0;
    let v := BitVec.ofNat 4 (s.field 0 3);
    (3 ≤ s.bitsLeft → s.ci.val + 1 < s.work.hclen.toNat + 4 → exec .cll s =
      .next { s.pastBits 3 with lens := Memory.set s.lens p v, ci := s.ci + 1, slot := .cll }) ∧
    (3 ≤ s.bitsLeft → s.work.hclen.toNat + 4 ≤ s.ci.val + 1 → s.work.ncodes ≠ 0 → exec .cll s =
      .next { s.pastBits 3 with
        lens := Memory.set s.lens p v, ci := 0, slot := .clSymbol, work := { s.work with li := 0 }
        ct := build ((List.range 19).map fun k => if k = p then v else s.codeLen k) }) ∧
    (s.bitsLeft < 3 → ∃ t, exec .cll s = .next t ∧ t.state = .failed ∧ t.cls = .failure ∧ t.kind = 5 ∧ t.detail = 0 ∧ t.bitsLeft = 0)

/-- CL_LIT appends its symbol as one code length; the length that completes ncodes builds LT and DT and starts the
expander. (44_deflate_block.md R200, R199, R204, 10_state.md R41) The record of phases held is the model's form of
R41 (log 11). -/
def Obligations.CodeLengthSymbolIsOneLength : Prop :=
  ∀ (s : State) (sym : Sym), sym ≤ 15 → s.work.li < s.work.ncodes →
    ∃ t, exec (.clLit sym) s = .next t ∧ s.CodeLengthsAdded t 1 (sym.setWidth 4)

/-- CL_REP16 appends the previous length 3 + x times, CL_ZERO17 zero 3 + x times, CL_ZERO18 zero 11 + x times.
(44_deflate_block.md R201, R202, R203, R199, R204, 30_encoding.md R90, 10_state.md R41) The record of phases held is
the model's form of R41 (log 11). -/
def Obligations.RepeatsAppendTheirCount : Prop :=
  ∀ s : State,
    (2 ≤ s.bitsLeft → s.work.li ≠ 0 → s.work.li.toNat + (3 + s.field 0 2) ≤ s.work.ncodes.toNat →
      ∃ t, exec .clRep16 s = .next t ∧ State.CodeLengthsAdded
        { s.pastBits 2 with work := { s.work with rep := BitVec.ofNat 8 (3 + s.field 0 2) } } t (3 + s.field 0 2)
        (s.codeLen (s.work.li.toNat - 1))) ∧
    (3 ≤ s.bitsLeft → s.work.li.toNat + (3 + s.field 0 3) ≤ s.work.ncodes.toNat →
      ∃ t, exec .clZero17 s = .next t ∧ State.CodeLengthsAdded
        { s.pastBits 3 with work := { s.work with rep := BitVec.ofNat 8 (3 + s.field 0 3) } } t (3 + s.field 0 3) 0) ∧
    (7 ≤ s.bitsLeft → s.work.li.toNat + (11 + s.field 0 7) ≤ s.work.ncodes.toNat →
      ∃ t, exec .clZero18 s = .next t ∧ State.CodeLengthsAdded
        { s.pastBits 7 with work := { s.work with rep := BitVec.ofNat 8 (11 + s.field 0 7) } } t (11 + s.field 0 7) 0)

/-- CL_REP16 with li = 0 faults before its extra bits; a repeat past ncodes faults after them and writes no length;
missing bits are Truncated. (44_deflate_block.md R201, R202, R203, 60_exceptions.md R256) -/
def Obligations.RepeatsStop : Prop :=
  ∀ s : State,
    (s.work.li = 0 → exec .clRep16 s = .next (s.enterStop .repeatWithoutPrevious)) ∧
    (s.work.li ≠ 0 → s.bitsLeft < 2 → ∃ t, exec .clRep16 s = .next t ∧ t.state = .failed ∧ t.cls = .failure ∧ t.kind = 5 ∧ t.detail = 0 ∧ t.bitsLeft = 0) ∧
    (s.bitsLeft < 3 → ∃ t, exec .clZero17 s = .next t ∧ t.state = .failed ∧ t.cls = .failure ∧ t.kind = 5 ∧ t.detail = 0 ∧ t.bitsLeft = 0) ∧
    (s.bitsLeft < 7 → ∃ t, exec .clZero18 s = .next t ∧ t.state = .failed ∧ t.cls = .failure ∧ t.kind = 5 ∧ t.detail = 0 ∧ t.bitsLeft = 0) ∧
    (2 ≤ s.bitsLeft → s.work.li ≠ 0 → s.work.ncodes.toNat < s.work.li.toNat + (3 + s.field 0 2) →
      exec .clRep16 s = .next (State.enterStop .codeLengthOverrun
        { s.pastBits 2 with work := { s.work with rep := BitVec.ofNat 8 (3 + s.field 0 2) } })) ∧
    (3 ≤ s.bitsLeft → s.work.ncodes.toNat < s.work.li.toNat + (3 + s.field 0 3) →
      exec .clZero17 s = .next (State.enterStop .codeLengthOverrun
        { s.pastBits 3 with work := { s.work with rep := BitVec.ofNat 8 (3 + s.field 0 3) } })) ∧
    (7 ≤ s.bitsLeft → s.work.ncodes.toNat < s.work.li.toNat + (11 + s.field 0 7) →
      exec .clZero18 s = .next (State.enterStop .codeLengthOverrun
        { s.pastBits 7 with work := { s.work with rep := BitVec.ofNat 8 (11 + s.field 0 7) } }))

/-- LIT emits the low 8 bits of its symbol and the next literal/length symbol follows; a full output is Truncated.
(43_lz77.md R171) -/
def Obligations.LiteralIsEmitted : Prop :=
  ∀ (sym : Sym) (s : State), sym ≤ 255 →
    (1 ≤ s.room → exec (.lit sym) s = .next { s.push (BitVec.ofNat 8 sym.toNat) with slot := .litLen }) ∧
    (s.room = 0 → exec (.lit sym) s = .next (s.enterStop .truncatedOut))

/-- EOB changes only what comes next: the trailer when is_final is 1, else a block header. (43_lz77.md R172,
44_deflate_block.md R190) -/
def Obligations.EndOfBlockReturnsToTheDriver : Prop :=
  ∀ s : State, exec .eob s = .next { s with slot := if s.isFinal = 1 then .trailer else .blockHeader }

/-- Each of LEN_257..LEN_285 sets match_len to its base plus its extra bits, 3..258, and a distance symbol is next.
(43_lz77.md R173, 30_encoding.md R92) -/
def Obligations.LengthElementsSetMatchLen : Prop :=
  ∀ r ∈ Sys2Proof.Claims.lengthRows, ∀ s : State,
    (r.2.2 ≤ s.bitsLeft → 3 ≤ r.2.1 + s.field 0 r.2.2 ∧ r.2.1 + s.field 0 r.2.2 ≤ 258 ∧
      exec r.1 s = .next { s.pastBits r.2.2 with
        work := { s.work with matchLen := BitVec.ofNat 9 (r.2.1 + s.field 0 r.2.2) }, slot := .dist }) ∧
    (s.bitsLeft < r.2.2 → ∃ t, exec r.1 s = .next t ∧ t.state = .failed ∧ t.cls = .failure ∧ t.kind = 5 ∧ t.detail = 0 ∧ t.bitsLeft = 0)

/-- Each of DIST_0..DIST_29 sets match_dist to base plus extra bits and emits match_len bytes, each the byte that far
back. (43_lz77.md R173, R174, 42_ring_buffer.md R161, R163, 30_encoding.md R94) -/
def Obligations.DistanceElementsRunTheMatch : Prop :=
  ∀ r ∈ Sys2Proof.Claims.distanceRows, ∀ s : State, r.2.2 ≤ s.bitsLeft →
    1 ≤ r.2.1 + s.field 0 r.2.2 ∧ r.2.1 + s.field 0 r.2.2 ≤ 32768 ∧
    (r.2.1 + s.field 0 r.2.2 ≤ s.emitted.toNat → s.work.matchLen.toNat ≤ s.room →
      ∃ bs, bs.length = s.work.matchLen.toNat ∧ s.MatchBytes (r.2.1 + s.field 0 r.2.2) bs ∧
        exec r.1 s = .next { State.pushAll bs (s.pastBits r.2.2) with
          work := { s.work with matchDist := BitVec.ofNat 16 (r.2.1 + s.field 0 r.2.2) }, slot := .litLen })

/-- A distance element stops: missing extra bits are Truncated, a distance above emitted faults with nothing emitted, a
full output cuts the match. (43_lz77.md R173, R174, R177, R178, 60_exceptions.md R256) -/
def Obligations.DistanceElementsStop : Prop :=
  ∀ r ∈ Sys2Proof.Claims.distanceRows, ∀ s : State,
    (s.bitsLeft < r.2.2 → ∃ t, exec r.1 s = .next t ∧ t.state = .failed ∧ t.cls = .failure ∧ t.kind = 5 ∧ t.detail = 0 ∧ t.bitsLeft = 0) ∧
    (r.2.2 ≤ s.bitsLeft → s.emitted.toNat < r.2.1 + s.field 0 r.2.2 → exec r.1 s =
      .next (State.enterStop .distanceBeyondHistory { s.pastBits r.2.2 with
        work := { s.work with matchDist := BitVec.ofNat 16 (r.2.1 + s.field 0 r.2.2) } })) ∧
    (r.2.2 ≤ s.bitsLeft → r.2.1 + s.field 0 r.2.2 ≤ s.emitted.toNat → s.room < s.work.matchLen.toNat →
      ∃ bs, bs.length = s.room ∧ s.MatchBytes (r.2.1 + s.field 0 r.2.2) bs ∧
        exec r.1 s = .next (State.enterStop .truncatedOut { State.pushAll bs (s.pastBits r.2.2) with
          work := { s.work with matchDist := BitVec.ofNat 16 (r.2.1 + s.field 0 r.2.2) } }))

/-- INVALID_LEN and INVALID_DIST stop with InvalidLengthSymbol and InvalidDistanceSymbol and read nothing. (R175, R176) -/
def Obligations.InvalidSymbolsFaultBeforeExtraBits : Prop :=
  ∀ (sym : Sym) (s : State),
    (sym = 286 ∨ sym = 287 → exec (.invalidLen sym) s = .next (s.enterStop .invalidLengthSymbol)) ∧
    (sym = 30 ∨ sym = 31 → exec (.invalidDist sym) s = .next (s.enterStop .invalidDistanceSymbol))

/-- No element changes a host register, a parameter, or anything on the host's side but output bytes. (10_state.md R47,
20_memory.md R60, 60_exceptions.md R257) -/
def Obligations.ElementsLeaveTheHostSide : Prop :=
  ∀ (i : Instr) (s : State), ∃ t, exec i s = .next t ∧
    t.inBase = s.inBase ∧ t.inLen = s.inLen ∧ t.outBase = s.outBase ∧ t.outCap = s.outCap ∧
    t.coreBase = s.coreBase ∧ t.hostAddrW = s.hostAddrW ∧ t.host = s.host ∧ t.busData = s.busData ∧
    t.unseen = s.unseen ∧ t.session = s.session ∧ t.freeCount = s.freeCount ∧
    s.KeptOutside t (s.outBase.toNat + s.outPos.toNat) (s.outBase.toNat + s.outCap.toNat)

/-- Container elements change only in_pos, flg, xlen, the trailer fields and the phase by TRAILER, what comes next, the
outcome registers. (45_gzip_container.md R221 to R233) -/
def Obligations.ContainerFrame : Prop :=
  (∀ i ∈ [Instr.magic, .method, .flags, .skipFixed, .extra, .name, .comment, .hcrc], ∀ s t : State, exec i s = .next t →
    t = { s with
      inPos := t.inPos, slot := t.slot, work := { s.work with flg := t.work.flg, xlen := t.work.xlen }
      state := t.state, cls := t.cls, kind := t.kind, detail := t.detail, mem := t.mem, lost := t.lost } ∧
    (i ≠ .flags → t.work.flg = s.work.flg) ∧ (i ≠ .extra → t.work.xlen = s.work.xlen) ∧ s.MemoryKept t) ∧
  ∀ s t : State, exec .trailer s = .next t →
    t = { s with
      inPos := t.inPos, crcField := t.crcField, isizeField := t.isizeField, phase := t.phase, phasesHeld := t.phasesHeld
      slot := t.slot, state := t.state, cls := t.cls, kind := t.kind, detail := t.detail, mem := t.mem, lost := t.lost } ∧
    s.MemoryKept t

/-- The table description elements change only the cursor, lens, their working registers, the tables they complete, and
what comes next. (44_deflate_block.md R196 to R204) -/
def Obligations.TableDescriptionFrame : Prop :=
  ∀ s t : State,
    (exec .dynHdr s = .next t →
      t = { s with
        inPos := t.inPos, bitbuf := t.bitbuf, bitcnt := t.bitcnt, lens := t.lens, ci := t.ci, slot := t.slot
        work := { s.work with hlit := t.work.hlit, hdist := t.work.hdist, hclen := t.work.hclen, ncodes := t.work.ncodes }
        state := t.state, cls := t.cls, kind := t.kind, detail := t.detail, mem := t.mem, lost := t.lost } ∧
      s.MemoryKept t) ∧
    (exec .cll s = .next t →
      t = { s with
        inPos := t.inPos, bitbuf := t.bitbuf, bitcnt := t.bitcnt, lens := t.lens, ci := t.ci, slot := t.slot, ct := t.ct
        work := { s.work with li := t.work.li }
        lt := t.lt, dt := t.dt, actLt := t.actLt, actDt := t.actDt, phase := t.phase, phasesHeld := t.phasesHeld
        state := t.state, cls := t.cls, kind := t.kind, detail := t.detail, mem := t.mem, lost := t.lost } ∧
      s.MemoryKept t) ∧
    (∀ i sym, i ∈ [Instr.clLit sym, .clRep16, .clZero17, .clZero18] → exec i s = .next t →
      t = { s with
        inPos := t.inPos, bitbuf := t.bitbuf, bitcnt := t.bitcnt, lens := t.lens, slot := t.slot
        work := { s.work with li := t.work.li, rep := t.work.rep }
        lt := t.lt, dt := t.dt, actLt := t.actLt, actDt := t.actDt, phase := t.phase, phasesHeld := t.phasesHeld
        state := t.state, cls := t.cls, kind := t.kind, detail := t.detail, mem := t.mem, lost := t.lost } ∧
      s.MemoryKept t)

/-- LEN_257..LEN_285 change only the bit cursor, match_len, what comes next, and on a stop the outcome registers.
(43_lz77.md R173) -/
def Obligations.LengthElementFrame : Prop :=
  ∀ r ∈ Sys2Proof.Claims.lengthRows, ∀ s t : State, exec r.1 s = .next t →
    t = { s with
      inPos := t.inPos, bitbuf := t.bitbuf, bitcnt := t.bitcnt, slot := t.slot
      work := { s.work with matchLen := t.work.matchLen }
      state := t.state, cls := t.cls, kind := t.kind, detail := t.detail, mem := t.mem, lost := t.lost } ∧
    s.MemoryKept t

/-- LIT, DIST_0..DIST_29 and STORED_LEN store only at OUT_BASE + out_pos on, one byte, match_len bytes or LEN bytes.
(43_lz77.md R171, R173, R178, 44_deflate_block.md R192, 20_memory.md R62, R63) -/
def Obligations.EmittingElementFrame : Prop :=
  (∀ (sym : Sym) (s t : State), exec (.lit sym) s = .next t →
      t = { s with
        ring := t.ring, wcur := t.wcur, emitted := t.emitted, outPos := t.outPos, slot := t.slot
        state := t.state, cls := t.cls, kind := t.kind, detail := t.detail, mem := t.mem, lost := t.lost } ∧
      (t.state ≠ .failed → s.KeptOutside t (s.outBase.toNat + s.outPos.toNat) (s.outBase.toNat + s.outPos.toNat + 1)) ∧
      s.KeptOutside t (s.outBase.toNat + s.outPos.toNat) (s.outBase.toNat + s.outCap.toNat)) ∧
    (∀ r ∈ Sys2Proof.Claims.distanceRows, ∀ s t : State, exec r.1 s = .next t →
      t = { s with
        inPos := t.inPos, bitbuf := t.bitbuf, bitcnt := t.bitcnt, work := { s.work with matchDist := t.work.matchDist }
        ring := t.ring, wcur := t.wcur, emitted := t.emitted, outPos := t.outPos, slot := t.slot
        state := t.state, cls := t.cls, kind := t.kind, detail := t.detail, mem := t.mem, lost := t.lost } ∧
      (t.state ≠ .failed → s.KeptOutside t (s.outBase.toNat + s.outPos.toNat)
        (s.outBase.toNat + s.outPos.toNat + s.work.matchLen.toNat)) ∧
      s.KeptOutside t (s.outBase.toNat + s.outPos.toNat) (s.outBase.toNat + s.outCap.toNat)) ∧
    (∀ s t : State, exec .storedLen s = .next t →
      t = { s with
        inPos := t.inPos, bitbuf := 0, bitcnt := 0
        work := { s.work with storedLen := t.work.storedLen, storedNlen := t.work.storedNlen }
        ring := t.ring, wcur := t.wcur, emitted := t.emitted, outPos := t.outPos, slot := t.slot
        state := t.state, cls := t.cls, kind := t.kind, detail := t.detail, mem := t.mem, lost := t.lost } ∧
      (t.state ≠ .failed → s.KeptOutside t (s.outBase.toNat + s.outPos.toNat)
        (s.outBase.toNat + s.outPos.toNat + (s.word16At 0).toNat)) ∧
      s.KeptOutside t (s.outBase.toNat + s.outPos.toNat) (s.outBase.toNat + s.outCap.toNat))

/-- Power-on reset, in State.reset and from any state, a BUSY one too, leaves every value R49 states; the core then
holds its state. (10_state.md R49, 20_memory.md R72, 70_reset_and_hazards.md R270, R275) That host memory, the
parameters and the record of output not yet visible stay is the model's inference of log 15, that record its form of
R72 (log 14), and that the reset of a BUSY core lands between two elements its choice of log 30. -/
def Obligations.ResetValues : Prop :=
  State.reset.PowerOnValues ∧ step State.reset = .next State.reset ∧
    ∀ (s : State) (rest : List HostMove), s.host = .powerOn :: rest →
      ∃ t, step s = .next t ∧ t.PowerOnValues ∧ t.host = rest ∧ (rest = [] → step t = .next t) ∧
        t.coreBase = s.coreBase ∧ t.hostAddrW = s.hostAddrW ∧ ∀ a, t.hostByte a = s.hostByte a ∧ (t.Unseen a ↔ s.Unseen a)

/-- Writing CTRL with bit 0 = 1 while not BUSY starts a session: the values of R50, MAGIC next, host registers and
memory unchanged. (10_state.md R40, R41, R50, 20_memory.md R72, 70_reset_and_hazards.md R271) That btype keeps its
value is the model's inference of log 22 (R50 does not name it), MAGIC next is its control point of log 19, the
record of phases held its form of R41 (log 11), that of output not yet visible its form of R72 (log 14), and that
the write is an aligned one of CTRL for every CORE_BASE its choice of log 20. -/
def Obligations.StartBeginsASession : Prop :=
  ∀ (s : State) (v : Word) (rest : List HostMove), s.state ≠ .busy → s.regionWraps = false → s.regionsOverlap = false →
    v.getLsbD 0 = true → s.host = .regWrite s.coreBase 4 v :: rest →
    ∃ t, step s = .next t ∧ t.state = .busy ∧ t.cls = .failure ∧ t.kind = 0 ∧ t.detail = 0 ∧ t.phase = .gzHeader ∧
      t.isFinal = 0 ∧ t.inPos = 0 ∧ t.outPos = 0 ∧ t.bitbuf = 0 ∧ t.bitcnt = 0 ∧ t.wcur = 0 ∧ t.emitted = 0 ∧
      t.crcField = 0 ∧ t.isizeField = 0 ∧ t.inBase = s.inBase ∧ t.inLen = s.inLen ∧ t.outBase = s.outBase ∧
      t.outCap = s.outCap ∧ t.btype = s.btype ∧ (∀ a, t.hostByte a = s.hostByte a) ∧ t.slot = .magic ∧ t.host = rest ∧
      t.phasesHeld = [.gzHeader] ∧ ∀ a, t.Unseen a ↔ s.inOutput a = true ∨ s.Unseen a

/-- An aligned register write is ignored while BUSY; otherwise the four writable registers take the value and the others
ignore it. (10_state.md R40 to R47) Aligned and the block are measured by offset modulo 2^32, the model's choice of
log 20. -/
def Obligations.RegisterWritesTakeEffectOnlyWhenNotBusy : Prop :=
  ∀ (s : State) (off v : Word) (rest : List HostMove), off.toNat < 0x1000 → off.toNat % 4 = 0 →
    s.host = .regWrite (s.coreBase + off) 4 v :: rest →
    (s.state = .busy → step s = .next { s with host := rest }) ∧
    (s.state ≠ .busy →
      (off = 0 → v.getLsbD 0 = false → step s = .next { s with host := rest }) ∧
      (off = 0x08 → step s = .next { s with host := rest, inBase := v }) ∧
      (off = 0x0C → step s = .next { s with host := rest, inLen := v }) ∧
      (off = 0x10 → step s = .next { s with host := rest, outBase := v }) ∧
      (off = 0x14 → step s = .next { s with host := rest, outCap := v }) ∧
      (off = 0x04 ∨ 0x18 ≤ off.toNat → step s = .next { s with host := rest }))

/-- An aligned read returns the register, BUSY or not (STATUS, IN_POS, OUT_POS: not BUSY); CTRL and unassigned offsets
read 0. (10_state.md R39 to R46, 20_memory.md R72) The record of output not yet visible is the model's form of R72
(log 14); aligned and the block are measured by offset modulo 2^32, its choice of log 20. -/
def Obligations.RegisterReadsReturnTheRegisters : Prop :=
  ∀ (s : State) (off : Word) (rest : List HostMove), off.toNat < 0x1000 → off.toNat % 4 = 0 →
    s.host = .regRead (s.coreBase + off) 4 :: rest →
    (off = 0x04 → s.state ≠ .busy → step s = .next { s with host := rest, busData := s.status, unseen := [] }) ∧
    (off ≠ 0x04 → (s.state = .busy → off ≠ 0x18 ∧ off ≠ 0x1C) → step s = .next { s with
      host := rest
      busData := ([0, 0, s.inBase, s.inLen, s.outBase, s.outCap, s.inPos, s.outPos, s.crcField, s.isizeField] : List Word).getD
        (off.toNat / 4) 0 })

/-- STATUS has STATE in 1:0, CLASS in 2, KIND in 7:4, DETAIL in 8, PHASE in 15:12 coded as R35 says, FINAL_SEEN in 16,
and 0 elsewhere. (10_state.md R35, R37, R41) The record of phases held is the model's form of R41 (log 11), and so
is the draw from it; aligned and the block are measured by offset modulo 2^32, its choice of log 20. -/
def Obligations.StatusFieldsAreWhereTheRegisterSays : Prop :=
  ∀ s : State,
    (s.status.extractLsb' 0 2 = s.state.code ∧
      s.status.extractLsb' 2 1 = (if s.state = .failed then s.cls.code else 0) ∧ s.status.extractLsb' 3 1 = 0 ∧
      s.status.extractLsb' 4 4 = (if s.state = .failed then s.kind else 0) ∧ s.status.extractLsb' 8 1 = s.detail ∧
      s.status.extractLsb' 9 3 = 0 ∧ s.status.extractLsb' 12 4 = s.phase.code ∧ s.status.extractLsb' 16 1 = s.isFinal ∧
      s.status.extractLsb' 17 15 = 0) ∧
    [SessionState.idle, .busy, .done, .failed].map SessionState.code = [0, 1, 2, 3] ∧
    [StopClass.failure, .fault].map StopClass.code = [0, 1] ∧
    [Phase.idle, .gzHeader, .blockHeader, .stored, .dynTables, .huffman, .trailer, .sessionEnd].map Phase.code =
      [0, 1, 2, 3, 4, 5, 6, 7] ∧
    (∀ r, (s.enterStop r).phase = s.phase) ∧
    (∀ t, exec .trailer s = .next t → t.state = .done → t.phase = .sessionEnd) ∧
    (∀ rest, s.host = .powerOn :: rest → ∃ t, step s = .next t ∧ t.phase = .idle) ∧
    (∀ rest, s.state ≠ .busy → s.host = .regRead (s.coreBase + 4) 4 :: rest →
      ∃ t, step s = .next t ∧ t.busData = s.status) ∧
    (∀ v rest, s.host = .regWrite (s.coreBase + 4) 4 v :: rest → step s = .next { s with host := rest }) ∧
    (∀ rest, s.state = .busy → s.phasesHeld ≠ [] → s.host = .regRead (s.coreBase + 4) 4 :: rest → ∃ p ∈ s.phasesHeld, ∃ f t,
      step s = .next t ∧ f ≤ s.isFinal ∧ t.busData = s.statusWord p f ∧ t.busData.extractLsb' 0 2 = 1 ∧
      t.busData.extractLsb' 2 2 = 0 ∧ t.busData.extractLsb' 4 4 = 0 ∧ t.busData.extractLsb' 8 1 = s.detail ∧
      t.busData.extractLsb' 9 3 = 0 ∧ t.busData.extractLsb' 12 4 = p.code ∧ t.busData.extractLsb' 16 1 = f ∧
      t.busData.extractLsb' 17 15 = 0 ∧
      t = { s with host := rest, busData := t.busData, freeCount := t.freeCount })

/-- IN_POS and OUT_POS read the cursors; while BUSY some value at most the current one; nothing else changes.
(10_state.md R22, R28, R44) That the values held are those up to the current one is the model's inference of log 11
(the cursors count up by one from 0), and how one is drawn its choice there; aligned and the block are measured by
offset modulo 2^32, its choice of log 20. -/
def Obligations.PositionReadsWhileBusyAreEarlierValues : Prop :=
  ∀ (s : State) (rest : List HostMove),
    (∀ off v, (off = 0x18 ∧ v = s.inPos) ∨ (off = 0x1C ∧ v = s.outPos) → s.host = .regRead (s.coreBase + off) 4 :: rest →
      ∃ t, step s = .next t ∧ t = { s with host := rest, busData := t.busData, freeCount := t.freeCount } ∧
        (s.state ≠ .busy → t.busData = v) ∧ (s.state = .busy → t.busData ≤ v)) ∧
    (∀ off v, off = 0x18 ∨ off = 0x1C → s.host = .regWrite (s.coreBase + off) 4 v :: rest →
      step s = .next { s with host := rest })

/-- Host moves the spec gives no effect are refused by name; any other host memory access reads or writes its byte;
power-on resets. (10_state.md R39, R46, 20_memory.md R72, R74, R75, R76, 70_reset_and_hazards.md R275,
93_implementation_defined.md A1 to A4) Refusing a register access outside the block and a byte access inside it is
the model's inference of log 13, the record of output not yet visible its form of R72 (log 14), the block's
addresses its choice of log 20, that a write lands last its choice of log 28, that a read of the input region while
BUSY is served its choice of log 29. -/
def Obligations.RefusedHostMoves : Prop :=
  ∀ (s : State) (rest : List HostMove) (addr : Word),
    let u : State := { s with host := rest };
    (∀ bytes v, s.inBlock addr = true → aligned32 (s.regOffset addr) bytes = false →
      (s.host = .regRead addr bytes :: rest ∨ s.host = .regWrite addr bytes v :: rest) →
      step s = .refused .narrowRegisterAccess) ∧
    (∀ b, s.inBlock addr = true → (s.host = .memRead addr :: rest ∨ s.host = .memWrite addr b :: rest) →
      step s = .refused .narrowRegisterAccess) ∧
    (∀ bytes v, s.inBlock addr = false → (s.host = .regRead addr bytes :: rest ∨ s.host = .regWrite addr bytes v :: rest) →
      step s = .refused .notARegister) ∧
    (∀ b, s.inBlock addr = false → s.state = .busy → s.inInput addr.toNat = true → s.host = .memWrite addr b :: rest →
      step s = .refused .inputWrittenWhileBusy) ∧
    (s.inBlock addr = false → s.state = .busy → s.inOutput addr.toNat = true → s.host = .memRead addr :: rest →
      step s = .refused .outputAccessedWhileBusy) ∧
    (∀ b, s.inBlock addr = false → s.state = .busy → s.inInput addr.toNat = false → s.inOutput addr.toNat = true →
      s.host = .memWrite addr b :: rest → step s = .refused .outputAccessedWhileBusy) ∧
    (∀ v, s.state ≠ .busy → v.getLsbD 0 = true → s.host = .regWrite s.coreBase 4 v :: rest →
      (s.regionWraps = true → step s = .refused .regionWraps) ∧
      (s.regionWraps = false → s.regionsOverlap = true → step s = .refused .regionsOverlap)) ∧
    (∀ b, s.inBlock addr = false → (s.state = .busy → s.inInput addr.toNat = false ∧ s.inOutput addr.toNat = false) →
      s.host = .memWrite addr b :: rest → step s = .next { u with mem := Memory.set s.mem addr.toNat b } ∧
        ∀ a, State.hostByte { u with mem := Memory.set s.mem addr.toNat b } a = if a = addr.toNat then b else s.hostByte a) ∧
    (s.inBlock addr = false → (s.state = .busy → s.inOutput addr.toNat = false) →
      s.host = .memRead addr :: rest →
      (¬ s.Unseen addr.toNat → step s = .next { u with busData := (s.hostByte addr.toNat).setWidth 32 }) ∧
      (s.Unseen addr.toNat → ∃ t, step s = .next t ∧ t.busData.toNat < 256 ∧
        t = { u with busData := t.busData, freeCount := t.freeCount })) ∧
    (s.host = .powerOn :: rest → ∃ t, step s = .next t ∧ t.PowerOnValues)

/-- Every step keeps host memory, the ring and lens in canonical form. (20_memory.md R60, R61, R62, R63) The
representation is the model's choice (log 3, log 6, log 7). -/
def Obligations.MemoriesStayCanonical : Prop :=
  ∀ s t : State, s.Canonical → step s = .next t → t.Canonical

/-- Every step keeps bitcnt in 0..7, emitted = min(32768, out_pos), wcur = out_pos mod 32768, in_pos <= IN_LEN, out_pos
<= OUT_CAP. (10_state.md R21, R22, R26, R27, R28) -/
def Obligations.CursorsStayInBounds : Prop :=
  ∀ s t : State, s.CursorsOk → step s = .next t → t.CursorsOk

/-- Every step keeps class, kind and detail 0 outside FAILED and those of one of the twelve stops inside it.
(10_state.md R37, 60_exceptions.md R241, R250) -/
def Obligations.OutcomeRegistersStayArchitected : Prop :=
  ∀ s t : State, s.OutcomeOk → step s = .next t → t.OutcomeOk

/-- Every step keeps a session's regions inside the host address space and disjoint. (20_memory.md R75, R76, 10_state.md
R47) That START refuses such regions is log 3 and log 13 (A3, A4). -/
def Obligations.SessionRegionsStayApart : Prop :=
  ∀ s t : State, s.RegionsOk → step s = .next t → t.RegionsOk

/-- Every step keeps the window invariant: ring[(wcur + 32768 - d) mod 32768] = OUT[out_pos - d] for 1 <= d <= emitted.
(R162) -/
def Obligations.RingHoldsTheLastOutputBytes : Prop :=
  ∀ s t : State, s.CursorsOk → s.WindowOk → step s = .next t → t.WindowOk

/-- Every step keeps the phase that fits the next element, the built tables and the ranges of the table description
counters. (44_deflate_block.md R205, R196 to R204, 41_huffman.md R145) The slots and ci are the model's control
point of log 19. -/
def Obligations.SessionsFollowTheStateMachine : Prop :=
  ∀ s t : State, s.ControlOk → step s = .next t → t.ControlOk

/-- From a state that follows the state machine no step ends in a fault of the model. (41_huffman.md R141, R145,
44_deflate_block.md R199, R205) The fault is the model's own (log 21). -/
def Obligations.NoRunReachesAModelFault : Prop :=
  ∀ s : State, s.ControlOk → ∀ f, step s ≠ .fault f

/-- The reset state satisfies every invariant stated here. (10_state.md R49) -/
def Obligations.ResetSatisfiesTheInvariants : Prop :=
  State.reset.Canonical ∧ State.reset.CursorsOk ∧ State.reset.OutcomeOk ∧ State.reset.RegionsOk ∧ State.reset.WindowOk ∧
    State.reset.ControlOk

/-- A BUSY core left alone stops within one step more than the input bits it has left. (70_reset_and_hazards.md R278)
That a step is an element is the model's choice of log 1. -/
def Obligations.EverySessionEnds : Prop :=
  ∀ s : State, s.state = .busy → s.host = [] → s.ControlOk → s.CursorsOk →
    ∃ n t, n ≤ s.bitsLeft + 1 ∧ Sys2Proof.core.run n s = .next t ∧ t.state ≠ .busy

/-- No step from a BUSY state changes an input byte or an output byte already emitted. (20_memory.md R61, R62, R74,
60_exceptions.md R255, 10_state.md R49, 70_reset_and_hazards.md R270) That power-on reset of a BUSY core, one of the
steps, keeps host memory is the model's inference of log 15. -/
def Obligations.InputAndEmittedBytesStayInASession : Prop :=
  ∀ s t : State, s.state = .busy → s.CursorsOk → s.RegionsOk → step s = .next t →
    ∀ a, s.inInput a = true ∨ (s.outBase.toNat ≤ a ∧ a < s.outBase.toNat + s.outPos.toNat) → t.hostByte a = s.hostByte a

/-- Two states that differ only in ring slots outside the window step alike, and still differ only there. (43_lz77.md
R177, 70_reset_and_hazards.md R280, 93_implementation_defined.md V1) How a slot without a value is held is the
model's choice of log 6. -/
def Obligations.RingOutsideTheWindowIsNeverRead : Prop :=
  ∀ (s t : State) (ring' : Store Byte), s.CursorsOk →
    (∀ d, 1 ≤ d → d ≤ s.emitted.toNat →
      State.ringByte { s with ring := ring' } ((s.wcur.toNat + 32768 - d) % 32768) = s.ringByte ((s.wcur.toNat + 32768 - d) % 32768)) →
    step s = .next t → ∃ t', step { s with ring := ring' } = .next t' ∧ t' = { t with ring := t'.ring } ∧
      ∀ d, 1 ≤ d → d ≤ t.emitted.toNat →
        t'.ringByte ((t.wcur.toNat + 32768 - d) % 32768) = t.ringByte ((t.wcur.toNat + 32768 - d) % 32768)
end

