-- ==== Sys2Proof/Laws/Memory.lean ====
section
/-! SUPPORT. The laws of memory: what a read after a write and after a forget gives, and that every memory operation
keeps the canonical form. -/

namespace Sys2Proof.Machine

variable {α : Type}

@[simp] theorem Memory.get?_set_self (m : Store α) (a : Nat) (v : α) : Memory.get? (Memory.set m a v) a = some v := by
  induction m with
  | nil => simp [Memory.set, Memory.get?]
  | cons c m ih =>
    obtain ⟨k, w⟩ := c
    simp only [Memory.set]
    split
    · simp [Memory.get?]
    · split
      · simp [Memory.get?]
      · rename_i h
        simp [Memory.get?, ih, show ¬ k = a from fun e => h e.symm]

theorem Memory.get?_set_other (m : Store α) {a b : Nat} (v : α) (h : b ≠ a) :
    Memory.get? (Memory.set m a v) b = Memory.get? m b := by
  induction m with
  | nil => simp [Memory.set, Memory.get?, Ne.symm h]
  | cons c m ih =>
    obtain ⟨k, w⟩ := c
    simp only [Memory.set]
    split
    · simp [Memory.get?, Ne.symm h]
    · split
      · rename_i e
        simp [Memory.get?, ← e, Ne.symm h]
      · simp [Memory.get?, ih]

theorem Memory.get?_set (m : Store α) (a b : Nat) (v : α) :
    Memory.get? (Memory.set m a v) b = if b = a then some v else Memory.get? m b := by
  split
  · rename_i h
    simp [h]
  · rename_i h
    exact Memory.get?_set_other m v h

theorem Memory.get?_fill (m : Store α) (n a b : Nat) (v : α) :
    Memory.get? (Memory.fill n a v m) b = if a ≤ b ∧ b < a + n then some v else Memory.get? m b := by
  induction n generalizing m a with
  | zero => rw [Memory.fill, if_neg (by omega)]
  | succ n ih =>
    rw [Memory.fill, ih, Memory.get?_set]
    by_cases h : b = a
    · rw [if_neg (by omega), if_pos h, if_pos (by omega)]
    · rw [if_neg h]
      by_cases h' : a + 1 ≤ b ∧ b < a + 1 + n
      · rw [if_pos h', if_pos (by omega)]
      · rw [if_neg h', if_neg (by omega)]

theorem Memory.get?_forget (m : Store α) (lo hi a : Nat) :
    Memory.get? (Memory.forget m lo hi) a = if lo ≤ a ∧ a < hi then none else Memory.get? m a := by
  induction m with
  | nil => simp [Memory.forget, Memory.get?]
  | cons c m ih =>
    obtain ⟨k, w⟩ := c
    simp only [Memory.forget] at ih ⊢
    by_cases hk : k < lo ∨ hi ≤ k
    · have hk' : (decide (k < lo) || decide (hi ≤ k)) = true := by simpa using hk
      simp only [List.filter_cons, hk', if_true, Memory.get?, ih]
      by_cases e : k = a
      · subst e
        simp only [if_true]
        rw [if_neg (by omega)]
      · simp [e]
    · have hk' : (decide (k < lo) || decide (hi ≤ k)) = false := by simpa using hk
      simp only [List.filter_cons, hk', Bool.false_eq_true, if_false, Memory.get?, ih]
      by_cases e : k = a
      · subst e
        have : lo ≤ k ∧ k < hi := by omega
        simp [this]
      · simp [e]

theorem Memory.set_keys_subset (m : Store α) (a k : Nat) (v : α) (h : k ∈ (Memory.set m a v).map Prod.fst) :
    k = a ∨ k ∈ m.map Prod.fst := by
  induction m with
  | nil => simpa [Memory.set] using h
  | cons c m ih =>
    obtain ⟨j, w⟩ := c
    simp only [Memory.set] at h
    split at h
    · simp only [List.map_cons, List.mem_cons] at h ⊢
      tauto
    · split at h
      · simp only [List.map_cons, List.mem_cons] at h ⊢
        tauto
      · simp only [List.map_cons, List.mem_cons] at h ⊢
        rcases h with h | h
        · exact .inr (.inl h)
        · exact (ih h).imp id .inr

/-- Writing keeps the canonical form. -/
theorem Memory.wf_set {m : Store α} (a : Nat) (v : α) (h : Memory.wf m) : Memory.wf (Memory.set m a v) := by
  induction m with
  | nil => simp [Memory.wf, Memory.set]
  | cons c m ih =>
    obtain ⟨k, w⟩ := c
    simp only [Memory.wf, List.map_cons, List.pairwise_cons] at h
    simp only [Memory.set]
    split
    · rename_i hlt
      simp only [Memory.wf, List.map_cons, List.pairwise_cons, List.mem_cons]
      exact ⟨fun j hj => hj.elim (fun e => e ▸ hlt) fun hj => hlt.trans (h.1 j hj), h.1, h.2⟩
    · split
      · rename_i e
        subst e
        exact List.pairwise_cons.2 h
      · rename_i h1 h2
        refine List.pairwise_cons.2 ⟨fun j hj => ?_, ih h.2⟩
        rcases Memory.set_keys_subset m a j v hj with rfl | hj
        · exact Nat.lt_of_le_of_ne (Nat.le_of_not_lt h1) (Ne.symm h2)
        · exact h.1 j hj

/-- Filling keeps the canonical form. -/
theorem Memory.wf_fill {m : Store α} (n a : Nat) (v : α) (h : Memory.wf m) : Memory.wf (Memory.fill n a v m) := by
  induction n generalizing m a with
  | zero => exact h
  | succ n ih => exact ih _ (Memory.wf_set a v h)

/-- Forgetting keeps the canonical form. -/
theorem Memory.wf_forget {m : Store α} (lo hi : Nat) (h : Memory.wf m) : Memory.wf (Memory.forget m lo hi) :=
  h.sublist (List.filter_sublist.map _)

/-- The memories of the reset state are in canonical form. -/
theorem State.reset_canonical : State.reset.Canonical := ⟨by decide, by decide, by decide⟩

end Sys2Proof.Machine
end

