-- ==== Sys2Proof/Laws/State.lean ====
section
/-! SUPPORT. One lemma per field of State for each named update, true by rfl, so that no proof unfolds a record update. -/

namespace Sys2Proof.Machine

/-! ### `State.setPhase` -/

@[simp] theorem State.setPhase_coreBase (s : State) (p : Phase) : (s.setPhase p).coreBase = s.coreBase := rfl
@[simp] theorem State.setPhase_hostAddrW (s : State) (p : Phase) : (s.setPhase p).hostAddrW = s.hostAddrW := rfl
@[simp] theorem State.setPhase_inBase (s : State) (p : Phase) : (s.setPhase p).inBase = s.inBase := rfl
@[simp] theorem State.setPhase_inLen (s : State) (p : Phase) : (s.setPhase p).inLen = s.inLen := rfl
@[simp] theorem State.setPhase_outBase (s : State) (p : Phase) : (s.setPhase p).outBase = s.outBase := rfl
@[simp] theorem State.setPhase_outCap (s : State) (p : Phase) : (s.setPhase p).outCap = s.outCap := rfl
@[simp] theorem State.setPhase_state (s : State) (p : Phase) : (s.setPhase p).state = s.state := rfl
@[simp] theorem State.setPhase_cls (s : State) (p : Phase) : (s.setPhase p).cls = s.cls := rfl
@[simp] theorem State.setPhase_kind (s : State) (p : Phase) : (s.setPhase p).kind = s.kind := rfl
@[simp] theorem State.setPhase_detail (s : State) (p : Phase) : (s.setPhase p).detail = s.detail := rfl
@[simp] theorem State.setPhase_phase (s : State) (p : Phase) : (s.setPhase p).phase = p := rfl
@[simp] theorem State.setPhase_isFinal (s : State) (p : Phase) : (s.setPhase p).isFinal = s.isFinal := rfl
@[simp] theorem State.setPhase_btype (s : State) (p : Phase) : (s.setPhase p).btype = s.btype := rfl
@[simp] theorem State.setPhase_inPos (s : State) (p : Phase) : (s.setPhase p).inPos = s.inPos := rfl
@[simp] theorem State.setPhase_bitbuf (s : State) (p : Phase) : (s.setPhase p).bitbuf = s.bitbuf := rfl
@[simp] theorem State.setPhase_bitcnt (s : State) (p : Phase) : (s.setPhase p).bitcnt = s.bitcnt := rfl
@[simp] theorem State.setPhase_ring (s : State) (p : Phase) : (s.setPhase p).ring = s.ring := rfl
@[simp] theorem State.setPhase_wcur (s : State) (p : Phase) : (s.setPhase p).wcur = s.wcur := rfl
@[simp] theorem State.setPhase_emitted (s : State) (p : Phase) : (s.setPhase p).emitted = s.emitted := rfl
@[simp] theorem State.setPhase_outPos (s : State) (p : Phase) : (s.setPhase p).outPos = s.outPos := rfl
@[simp] theorem State.setPhase_lt (s : State) (p : Phase) : (s.setPhase p).lt = s.lt := rfl
@[simp] theorem State.setPhase_dt (s : State) (p : Phase) : (s.setPhase p).dt = s.dt := rfl
@[simp] theorem State.setPhase_ct (s : State) (p : Phase) : (s.setPhase p).ct = s.ct := rfl
@[simp] theorem State.setPhase_lens (s : State) (p : Phase) : (s.setPhase p).lens = s.lens := rfl
@[simp] theorem State.setPhase_actLt (s : State) (p : Phase) : (s.setPhase p).actLt = s.actLt := rfl
@[simp] theorem State.setPhase_actDt (s : State) (p : Phase) : (s.setPhase p).actDt = s.actDt := rfl
@[simp] theorem State.setPhase_work (s : State) (p : Phase) : (s.setPhase p).work = s.work := rfl
@[simp] theorem State.setPhase_crcField (s : State) (p : Phase) : (s.setPhase p).crcField = s.crcField := rfl
@[simp] theorem State.setPhase_isizeField (s : State) (p : Phase) : (s.setPhase p).isizeField = s.isizeField := rfl
@[simp] theorem State.setPhase_mem (s : State) (p : Phase) : (s.setPhase p).mem = s.mem := rfl
@[simp] theorem State.setPhase_lost (s : State) (p : Phase) : (s.setPhase p).lost = s.lost := rfl
@[simp] theorem State.setPhase_slot (s : State) (p : Phase) : (s.setPhase p).slot = s.slot := rfl
@[simp] theorem State.setPhase_ci (s : State) (p : Phase) : (s.setPhase p).ci = s.ci := rfl
@[simp] theorem State.setPhase_host (s : State) (p : Phase) : (s.setPhase p).host = s.host := rfl
@[simp] theorem State.setPhase_busData (s : State) (p : Phase) : (s.setPhase p).busData = s.busData := rfl
@[simp] theorem State.setPhase_unseen (s : State) (p : Phase) : (s.setPhase p).unseen = s.unseen := rfl
@[simp] theorem State.setPhase_phasesHeld (s : State) (p : Phase) : (s.setPhase p).phasesHeld = if p ∈ s.phasesHeld then s.phasesHeld else p :: s.phasesHeld := rfl
@[simp] theorem State.setPhase_session (s : State) (p : Phase) : (s.setPhase p).session = s.session := rfl
@[simp] theorem State.setPhase_freeCount (s : State) (p : Phase) : (s.setPhase p).freeCount = s.freeCount := rfl

/-- The phases held once phase `p` has been entered (R41). -/
theorem State.mem_phasesHeld_setPhase (s : State) (p q : Phase) :
    q ∈ (s.setPhase p).phasesHeld ↔ q = p ∨ q ∈ s.phasesHeld := by
  rw [State.setPhase_phasesHeld]
  split
  · exact ⟨.inr, fun h => h.elim (fun e => e ▸ ‹_›) id⟩
  · exact List.mem_cons

/-! ### `State.enterStop` -/

@[simp] theorem State.enterStop_coreBase (s : State) (r : Stop) : (s.enterStop r).coreBase = s.coreBase := rfl
@[simp] theorem State.enterStop_hostAddrW (s : State) (r : Stop) : (s.enterStop r).hostAddrW = s.hostAddrW := rfl
@[simp] theorem State.enterStop_inBase (s : State) (r : Stop) : (s.enterStop r).inBase = s.inBase := rfl
@[simp] theorem State.enterStop_inLen (s : State) (r : Stop) : (s.enterStop r).inLen = s.inLen := rfl
@[simp] theorem State.enterStop_outBase (s : State) (r : Stop) : (s.enterStop r).outBase = s.outBase := rfl
@[simp] theorem State.enterStop_outCap (s : State) (r : Stop) : (s.enterStop r).outCap = s.outCap := rfl
@[simp] theorem State.enterStop_state (s : State) (r : Stop) : (s.enterStop r).state = .failed := rfl
@[simp] theorem State.enterStop_cls (s : State) (r : Stop) : (s.enterStop r).cls = r.cls := rfl
@[simp] theorem State.enterStop_kind (s : State) (r : Stop) : (s.enterStop r).kind = r.kind := rfl
@[simp] theorem State.enterStop_detail (s : State) (r : Stop) : (s.enterStop r).detail = r.detail := rfl
@[simp] theorem State.enterStop_phase (s : State) (r : Stop) : (s.enterStop r).phase = s.phase := rfl
@[simp] theorem State.enterStop_isFinal (s : State) (r : Stop) : (s.enterStop r).isFinal = s.isFinal := rfl
@[simp] theorem State.enterStop_btype (s : State) (r : Stop) : (s.enterStop r).btype = s.btype := rfl
@[simp] theorem State.enterStop_inPos (s : State) (r : Stop) : (s.enterStop r).inPos = s.inPos := rfl
@[simp] theorem State.enterStop_bitbuf (s : State) (r : Stop) : (s.enterStop r).bitbuf = s.bitbuf := rfl
@[simp] theorem State.enterStop_bitcnt (s : State) (r : Stop) : (s.enterStop r).bitcnt = s.bitcnt := rfl
@[simp] theorem State.enterStop_ring (s : State) (r : Stop) : (s.enterStop r).ring = s.ring := rfl
@[simp] theorem State.enterStop_wcur (s : State) (r : Stop) : (s.enterStop r).wcur = s.wcur := rfl
@[simp] theorem State.enterStop_emitted (s : State) (r : Stop) : (s.enterStop r).emitted = s.emitted := rfl
@[simp] theorem State.enterStop_outPos (s : State) (r : Stop) : (s.enterStop r).outPos = s.outPos := rfl
@[simp] theorem State.enterStop_lt (s : State) (r : Stop) : (s.enterStop r).lt = s.lt := rfl
@[simp] theorem State.enterStop_dt (s : State) (r : Stop) : (s.enterStop r).dt = s.dt := rfl
@[simp] theorem State.enterStop_ct (s : State) (r : Stop) : (s.enterStop r).ct = s.ct := rfl
@[simp] theorem State.enterStop_lens (s : State) (r : Stop) : (s.enterStop r).lens = s.lens := rfl
@[simp] theorem State.enterStop_actLt (s : State) (r : Stop) : (s.enterStop r).actLt = s.actLt := rfl
@[simp] theorem State.enterStop_actDt (s : State) (r : Stop) : (s.enterStop r).actDt = s.actDt := rfl
@[simp] theorem State.enterStop_work (s : State) (r : Stop) : (s.enterStop r).work = s.work := rfl
@[simp] theorem State.enterStop_crcField (s : State) (r : Stop) : (s.enterStop r).crcField = s.crcField := rfl
@[simp] theorem State.enterStop_isizeField (s : State) (r : Stop) : (s.enterStop r).isizeField = s.isizeField := rfl
@[simp] theorem State.enterStop_mem (s : State) (r : Stop) : (s.enterStop r).mem = Memory.forget s.mem (s.outBase.toNat + s.outPos.toNat) (s.outBase.toNat + s.outCap.toNat) := rfl
@[simp] theorem State.enterStop_lost (s : State) (r : Stop) : (s.enterStop r).lost = (s.outBase.toNat + s.outPos.toNat, s.outBase.toNat + s.outCap.toNat) :: s.lost := rfl
@[simp] theorem State.enterStop_slot (s : State) (r : Stop) : (s.enterStop r).slot = s.slot := rfl
@[simp] theorem State.enterStop_ci (s : State) (r : Stop) : (s.enterStop r).ci = s.ci := rfl
@[simp] theorem State.enterStop_host (s : State) (r : Stop) : (s.enterStop r).host = s.host := rfl
@[simp] theorem State.enterStop_busData (s : State) (r : Stop) : (s.enterStop r).busData = s.busData := rfl
@[simp] theorem State.enterStop_unseen (s : State) (r : Stop) : (s.enterStop r).unseen = s.unseen := rfl
@[simp] theorem State.enterStop_phasesHeld (s : State) (r : Stop) : (s.enterStop r).phasesHeld = s.phasesHeld := rfl
@[simp] theorem State.enterStop_session (s : State) (r : Stop) : (s.enterStop r).session = s.session := rfl
@[simp] theorem State.enterStop_freeCount (s : State) (r : Stop) : (s.enterStop r).freeCount = s.freeCount := rfl

/-! ### `State.push` -/

@[simp] theorem State.push_coreBase (s : State) (b : Byte) : (s.push b).coreBase = s.coreBase := rfl
@[simp] theorem State.push_hostAddrW (s : State) (b : Byte) : (s.push b).hostAddrW = s.hostAddrW := rfl
@[simp] theorem State.push_inBase (s : State) (b : Byte) : (s.push b).inBase = s.inBase := rfl
@[simp] theorem State.push_inLen (s : State) (b : Byte) : (s.push b).inLen = s.inLen := rfl
@[simp] theorem State.push_outBase (s : State) (b : Byte) : (s.push b).outBase = s.outBase := rfl
@[simp] theorem State.push_outCap (s : State) (b : Byte) : (s.push b).outCap = s.outCap := rfl
@[simp] theorem State.push_state (s : State) (b : Byte) : (s.push b).state = s.state := rfl
@[simp] theorem State.push_cls (s : State) (b : Byte) : (s.push b).cls = s.cls := rfl
@[simp] theorem State.push_kind (s : State) (b : Byte) : (s.push b).kind = s.kind := rfl
@[simp] theorem State.push_detail (s : State) (b : Byte) : (s.push b).detail = s.detail := rfl
@[simp] theorem State.push_phase (s : State) (b : Byte) : (s.push b).phase = s.phase := rfl
@[simp] theorem State.push_isFinal (s : State) (b : Byte) : (s.push b).isFinal = s.isFinal := rfl
@[simp] theorem State.push_btype (s : State) (b : Byte) : (s.push b).btype = s.btype := rfl
@[simp] theorem State.push_inPos (s : State) (b : Byte) : (s.push b).inPos = s.inPos := rfl
@[simp] theorem State.push_bitbuf (s : State) (b : Byte) : (s.push b).bitbuf = s.bitbuf := rfl
@[simp] theorem State.push_bitcnt (s : State) (b : Byte) : (s.push b).bitcnt = s.bitcnt := rfl
@[simp] theorem State.push_ring (s : State) (b : Byte) : (s.push b).ring = Memory.set s.ring s.wcur.toNat b := rfl
@[simp] theorem State.push_wcur (s : State) (b : Byte) : (s.push b).wcur = s.wcur + 1 := rfl
@[simp] theorem State.push_emitted (s : State) (b : Byte) : (s.push b).emitted = if s.emitted < 32768 then s.emitted + 1 else 32768 := rfl
@[simp] theorem State.push_outPos (s : State) (b : Byte) : (s.push b).outPos = s.outPos + 1 := rfl
@[simp] theorem State.push_lt (s : State) (b : Byte) : (s.push b).lt = s.lt := rfl
@[simp] theorem State.push_dt (s : State) (b : Byte) : (s.push b).dt = s.dt := rfl
@[simp] theorem State.push_ct (s : State) (b : Byte) : (s.push b).ct = s.ct := rfl
@[simp] theorem State.push_lens (s : State) (b : Byte) : (s.push b).lens = s.lens := rfl
@[simp] theorem State.push_actLt (s : State) (b : Byte) : (s.push b).actLt = s.actLt := rfl
@[simp] theorem State.push_actDt (s : State) (b : Byte) : (s.push b).actDt = s.actDt := rfl
@[simp] theorem State.push_work (s : State) (b : Byte) : (s.push b).work = s.work := rfl
@[simp] theorem State.push_crcField (s : State) (b : Byte) : (s.push b).crcField = s.crcField := rfl
@[simp] theorem State.push_isizeField (s : State) (b : Byte) : (s.push b).isizeField = s.isizeField := rfl
@[simp] theorem State.push_mem (s : State) (b : Byte) : (s.push b).mem = Memory.set s.mem (s.outBase.toNat + s.outPos.toNat) b := rfl
@[simp] theorem State.push_lost (s : State) (b : Byte) : (s.push b).lost = s.lost := rfl
@[simp] theorem State.push_slot (s : State) (b : Byte) : (s.push b).slot = s.slot := rfl
@[simp] theorem State.push_ci (s : State) (b : Byte) : (s.push b).ci = s.ci := rfl
@[simp] theorem State.push_host (s : State) (b : Byte) : (s.push b).host = s.host := rfl
@[simp] theorem State.push_busData (s : State) (b : Byte) : (s.push b).busData = s.busData := rfl
@[simp] theorem State.push_unseen (s : State) (b : Byte) : (s.push b).unseen = s.unseen := rfl
@[simp] theorem State.push_phasesHeld (s : State) (b : Byte) : (s.push b).phasesHeld = s.phasesHeld := rfl
@[simp] theorem State.push_session (s : State) (b : Byte) : (s.push b).session = s.session := rfl
@[simp] theorem State.push_freeCount (s : State) (b : Byte) : (s.push b).freeCount = s.freeCount := rfl

/-! ### `State.setCodeLen` -/

@[simp] theorem State.setCodeLen_coreBase (s : State) (i : Nat) (v : BitVec 4) : (s.setCodeLen i v).coreBase = s.coreBase := rfl
@[simp] theorem State.setCodeLen_hostAddrW (s : State) (i : Nat) (v : BitVec 4) : (s.setCodeLen i v).hostAddrW = s.hostAddrW := rfl
@[simp] theorem State.setCodeLen_inBase (s : State) (i : Nat) (v : BitVec 4) : (s.setCodeLen i v).inBase = s.inBase := rfl
@[simp] theorem State.setCodeLen_inLen (s : State) (i : Nat) (v : BitVec 4) : (s.setCodeLen i v).inLen = s.inLen := rfl
@[simp] theorem State.setCodeLen_outBase (s : State) (i : Nat) (v : BitVec 4) : (s.setCodeLen i v).outBase = s.outBase := rfl
@[simp] theorem State.setCodeLen_outCap (s : State) (i : Nat) (v : BitVec 4) : (s.setCodeLen i v).outCap = s.outCap := rfl
@[simp] theorem State.setCodeLen_state (s : State) (i : Nat) (v : BitVec 4) : (s.setCodeLen i v).state = s.state := rfl
@[simp] theorem State.setCodeLen_cls (s : State) (i : Nat) (v : BitVec 4) : (s.setCodeLen i v).cls = s.cls := rfl
@[simp] theorem State.setCodeLen_kind (s : State) (i : Nat) (v : BitVec 4) : (s.setCodeLen i v).kind = s.kind := rfl
@[simp] theorem State.setCodeLen_detail (s : State) (i : Nat) (v : BitVec 4) : (s.setCodeLen i v).detail = s.detail := rfl
@[simp] theorem State.setCodeLen_phase (s : State) (i : Nat) (v : BitVec 4) : (s.setCodeLen i v).phase = s.phase := rfl
@[simp] theorem State.setCodeLen_isFinal (s : State) (i : Nat) (v : BitVec 4) : (s.setCodeLen i v).isFinal = s.isFinal := rfl
@[simp] theorem State.setCodeLen_btype (s : State) (i : Nat) (v : BitVec 4) : (s.setCodeLen i v).btype = s.btype := rfl
@[simp] theorem State.setCodeLen_inPos (s : State) (i : Nat) (v : BitVec 4) : (s.setCodeLen i v).inPos = s.inPos := rfl
@[simp] theorem State.setCodeLen_bitbuf (s : State) (i : Nat) (v : BitVec 4) : (s.setCodeLen i v).bitbuf = s.bitbuf := rfl
@[simp] theorem State.setCodeLen_bitcnt (s : State) (i : Nat) (v : BitVec 4) : (s.setCodeLen i v).bitcnt = s.bitcnt := rfl
@[simp] theorem State.setCodeLen_ring (s : State) (i : Nat) (v : BitVec 4) : (s.setCodeLen i v).ring = s.ring := rfl
@[simp] theorem State.setCodeLen_wcur (s : State) (i : Nat) (v : BitVec 4) : (s.setCodeLen i v).wcur = s.wcur := rfl
@[simp] theorem State.setCodeLen_emitted (s : State) (i : Nat) (v : BitVec 4) : (s.setCodeLen i v).emitted = s.emitted := rfl
@[simp] theorem State.setCodeLen_outPos (s : State) (i : Nat) (v : BitVec 4) : (s.setCodeLen i v).outPos = s.outPos := rfl
@[simp] theorem State.setCodeLen_lt (s : State) (i : Nat) (v : BitVec 4) : (s.setCodeLen i v).lt = s.lt := rfl
@[simp] theorem State.setCodeLen_dt (s : State) (i : Nat) (v : BitVec 4) : (s.setCodeLen i v).dt = s.dt := rfl
@[simp] theorem State.setCodeLen_ct (s : State) (i : Nat) (v : BitVec 4) : (s.setCodeLen i v).ct = s.ct := rfl
@[simp] theorem State.setCodeLen_lens (s : State) (i : Nat) (v : BitVec 4) : (s.setCodeLen i v).lens = Memory.set s.lens i v := rfl
@[simp] theorem State.setCodeLen_actLt (s : State) (i : Nat) (v : BitVec 4) : (s.setCodeLen i v).actLt = s.actLt := rfl
@[simp] theorem State.setCodeLen_actDt (s : State) (i : Nat) (v : BitVec 4) : (s.setCodeLen i v).actDt = s.actDt := rfl
@[simp] theorem State.setCodeLen_work (s : State) (i : Nat) (v : BitVec 4) : (s.setCodeLen i v).work = s.work := rfl
@[simp] theorem State.setCodeLen_crcField (s : State) (i : Nat) (v : BitVec 4) : (s.setCodeLen i v).crcField = s.crcField := rfl
@[simp] theorem State.setCodeLen_isizeField (s : State) (i : Nat) (v : BitVec 4) : (s.setCodeLen i v).isizeField = s.isizeField := rfl
@[simp] theorem State.setCodeLen_mem (s : State) (i : Nat) (v : BitVec 4) : (s.setCodeLen i v).mem = s.mem := rfl
@[simp] theorem State.setCodeLen_lost (s : State) (i : Nat) (v : BitVec 4) : (s.setCodeLen i v).lost = s.lost := rfl
@[simp] theorem State.setCodeLen_slot (s : State) (i : Nat) (v : BitVec 4) : (s.setCodeLen i v).slot = s.slot := rfl
@[simp] theorem State.setCodeLen_ci (s : State) (i : Nat) (v : BitVec 4) : (s.setCodeLen i v).ci = s.ci := rfl
@[simp] theorem State.setCodeLen_host (s : State) (i : Nat) (v : BitVec 4) : (s.setCodeLen i v).host = s.host := rfl
@[simp] theorem State.setCodeLen_busData (s : State) (i : Nat) (v : BitVec 4) : (s.setCodeLen i v).busData = s.busData := rfl
@[simp] theorem State.setCodeLen_unseen (s : State) (i : Nat) (v : BitVec 4) : (s.setCodeLen i v).unseen = s.unseen := rfl
@[simp] theorem State.setCodeLen_phasesHeld (s : State) (i : Nat) (v : BitVec 4) : (s.setCodeLen i v).phasesHeld = s.phasesHeld := rfl
@[simp] theorem State.setCodeLen_session (s : State) (i : Nat) (v : BitVec 4) : (s.setCodeLen i v).session = s.session := rfl
@[simp] theorem State.setCodeLen_freeCount (s : State) (i : Nat) (v : BitVec 4) : (s.setCodeLen i v).freeCount = s.freeCount := rfl

/-! ### `State.pastBytes` -/

@[simp] theorem State.pastBytes_coreBase (s : State) (n : Nat) : (s.pastBytes n).coreBase = s.coreBase := rfl
@[simp] theorem State.pastBytes_hostAddrW (s : State) (n : Nat) : (s.pastBytes n).hostAddrW = s.hostAddrW := rfl
@[simp] theorem State.pastBytes_inBase (s : State) (n : Nat) : (s.pastBytes n).inBase = s.inBase := rfl
@[simp] theorem State.pastBytes_inLen (s : State) (n : Nat) : (s.pastBytes n).inLen = s.inLen := rfl
@[simp] theorem State.pastBytes_outBase (s : State) (n : Nat) : (s.pastBytes n).outBase = s.outBase := rfl
@[simp] theorem State.pastBytes_outCap (s : State) (n : Nat) : (s.pastBytes n).outCap = s.outCap := rfl
@[simp] theorem State.pastBytes_state (s : State) (n : Nat) : (s.pastBytes n).state = s.state := rfl
@[simp] theorem State.pastBytes_cls (s : State) (n : Nat) : (s.pastBytes n).cls = s.cls := rfl
@[simp] theorem State.pastBytes_kind (s : State) (n : Nat) : (s.pastBytes n).kind = s.kind := rfl
@[simp] theorem State.pastBytes_detail (s : State) (n : Nat) : (s.pastBytes n).detail = s.detail := rfl
@[simp] theorem State.pastBytes_phase (s : State) (n : Nat) : (s.pastBytes n).phase = s.phase := rfl
@[simp] theorem State.pastBytes_isFinal (s : State) (n : Nat) : (s.pastBytes n).isFinal = s.isFinal := rfl
@[simp] theorem State.pastBytes_btype (s : State) (n : Nat) : (s.pastBytes n).btype = s.btype := rfl
@[simp] theorem State.pastBytes_inPos (s : State) (n : Nat) : (s.pastBytes n).inPos = s.inPos + BitVec.ofNat 32 n := rfl
@[simp] theorem State.pastBytes_bitbuf (s : State) (n : Nat) : (s.pastBytes n).bitbuf = s.bitbuf := rfl
@[simp] theorem State.pastBytes_bitcnt (s : State) (n : Nat) : (s.pastBytes n).bitcnt = s.bitcnt := rfl
@[simp] theorem State.pastBytes_ring (s : State) (n : Nat) : (s.pastBytes n).ring = s.ring := rfl
@[simp] theorem State.pastBytes_wcur (s : State) (n : Nat) : (s.pastBytes n).wcur = s.wcur := rfl
@[simp] theorem State.pastBytes_emitted (s : State) (n : Nat) : (s.pastBytes n).emitted = s.emitted := rfl
@[simp] theorem State.pastBytes_outPos (s : State) (n : Nat) : (s.pastBytes n).outPos = s.outPos := rfl
@[simp] theorem State.pastBytes_lt (s : State) (n : Nat) : (s.pastBytes n).lt = s.lt := rfl
@[simp] theorem State.pastBytes_dt (s : State) (n : Nat) : (s.pastBytes n).dt = s.dt := rfl
@[simp] theorem State.pastBytes_ct (s : State) (n : Nat) : (s.pastBytes n).ct = s.ct := rfl
@[simp] theorem State.pastBytes_lens (s : State) (n : Nat) : (s.pastBytes n).lens = s.lens := rfl
@[simp] theorem State.pastBytes_actLt (s : State) (n : Nat) : (s.pastBytes n).actLt = s.actLt := rfl
@[simp] theorem State.pastBytes_actDt (s : State) (n : Nat) : (s.pastBytes n).actDt = s.actDt := rfl
@[simp] theorem State.pastBytes_work (s : State) (n : Nat) : (s.pastBytes n).work = s.work := rfl
@[simp] theorem State.pastBytes_crcField (s : State) (n : Nat) : (s.pastBytes n).crcField = s.crcField := rfl
@[simp] theorem State.pastBytes_isizeField (s : State) (n : Nat) : (s.pastBytes n).isizeField = s.isizeField := rfl
@[simp] theorem State.pastBytes_mem (s : State) (n : Nat) : (s.pastBytes n).mem = s.mem := rfl
@[simp] theorem State.pastBytes_lost (s : State) (n : Nat) : (s.pastBytes n).lost = s.lost := rfl
@[simp] theorem State.pastBytes_slot (s : State) (n : Nat) : (s.pastBytes n).slot = s.slot := rfl
@[simp] theorem State.pastBytes_ci (s : State) (n : Nat) : (s.pastBytes n).ci = s.ci := rfl
@[simp] theorem State.pastBytes_host (s : State) (n : Nat) : (s.pastBytes n).host = s.host := rfl
@[simp] theorem State.pastBytes_busData (s : State) (n : Nat) : (s.pastBytes n).busData = s.busData := rfl
@[simp] theorem State.pastBytes_unseen (s : State) (n : Nat) : (s.pastBytes n).unseen = s.unseen := rfl
@[simp] theorem State.pastBytes_phasesHeld (s : State) (n : Nat) : (s.pastBytes n).phasesHeld = s.phasesHeld := rfl
@[simp] theorem State.pastBytes_session (s : State) (n : Nat) : (s.pastBytes n).session = s.session := rfl
@[simp] theorem State.pastBytes_freeCount (s : State) (n : Nat) : (s.pastBytes n).freeCount = s.freeCount := rfl

end Sys2Proof.Machine
end

