-- ==== Sys2Proof/Laws/Reader.lean ====
section
/-! SUPPORT. What each micro-operation of the Bit Reader can do, said once: its value and the state it leaves where the
input has enough bits or bytes, its stop where it has not, and that it changes nothing but the bit cursor. -/

namespace Sys2Proof.Machine

variable {α β : Type}

@[simp] theorem Res.bind_ok (a : α) (s : State) (f : α → State → Res β) : (Res.ok a s).bind f = f a s := rfl
@[simp] theorem Res.bind_stop (r : Stop) (s : State) (f : α → State → Res β) : (Res.stop r s).bind f = .stop r s := rfl
@[simp] theorem Res.state_ok (a : α) (s : State) : (Res.ok a s).state = s := rfl
@[simp] theorem Res.state_stop (r : Stop) (s : State) : (Res.stop r s : Res α).state = s := rfl
@[simp] theorem Res.finish_ok (s : State) : (Res.ok () s).finish = .next s := rfl
@[simp] theorem Res.finish_stop (r : Stop) (s : State) : (Res.stop r s).finish = .next (s.enterStop r) := rfl

/-- An element that ends always leaves a next state. -/
theorem Res.finish_next (x : Res Unit) : ∃ t, x.finish = .next t := by
  cases x <;> exact ⟨_, rfl⟩

/-- `bind` answers a value exactly when both parts do. -/
theorem Res.bind_eq_ok {x : Res α} {f : α → State → Res β} {b : β} {t : State} :
    x.bind f = .ok b t ↔ ∃ a s, x = .ok a s ∧ f a s = .ok b t := by
  cases x <;> simp [Res.bind]

/-- A raise of `bind` is the first part's, or the second's after the first has answered. -/
theorem Res.bind_eq_stop {x : Res α} {f : α → State → Res β} {r : Stop} {t : State} :
    x.bind f = .stop r t ↔ x = .stop r t ∨ ∃ a s, x = .ok a s ∧ f a s = .stop r t := by
  cases x <;> simp [Res.bind]

/-! ### Only the bit cursor moves -/

theorem State.SameButCursor.refl (s : State) : s.SameButCursor s := rfl

theorem State.SameButCursor.trans {s t u : State} (h : s.SameButCursor t) (h' : t.SameButCursor u) :
    s.SameButCursor u := by
  unfold State.SameButCursor at *
  rw [h'] ; rw [h]

theorem State.SameButCursor.mk (s : State) (p : Word) (b : Byte) (c : BitVec 4) :
    s.SameButCursor { s with inPos := p, bitbuf := b, bitcnt := c } := rfl

theorem bind_sameButCursor {x : Res α} {f : α → State → Res β} {s : State} (hx : s.SameButCursor x.state)
    (hf : ∀ a t, x = .ok a t → t.SameButCursor (f a t).state) : s.SameButCursor (x.bind f).state := by
  cases x with
  | ok a t => exact hx.trans (hf a t rfl)
  | stop r t => exact hx

theorem readByte_sameButCursor (s : State) : s.SameButCursor (readByte s).state := by
  unfold readByte
  split <;> rfl

theorem refill_sameButCursor (s : State) : s.SameButCursor (refill s).state := by
  unfold refill
  split
  · exact bind_sameButCursor (readByte_sameButCursor s) fun _ _ _ => rfl
  · rfl

theorem readBit_sameButCursor (s : State) : s.SameButCursor (readBit s).state :=
  bind_sameButCursor (refill_sameButCursor s) fun _ _ _ => rfl

theorem readBits_sameButCursor (n : Nat) (s : State) : s.SameButCursor (readBits n s).state := by
  induction n generalizing s with
  | zero => rfl
  | succ n ih =>
    exact bind_sameButCursor (readBit_sameButCursor s) fun b t _ =>
      bind_sameButCursor (ih t) fun _ _ _ => rfl

theorem read16LE_sameButCursor (s : State) : s.SameButCursor (read16LE s).state :=
  bind_sameButCursor (readByte_sameButCursor s) fun _ t _ =>
    bind_sameButCursor (readByte_sameButCursor t) fun _ _ _ => rfl

theorem read32LE_sameButCursor (s : State) : s.SameButCursor (read32LE s).state :=
  bind_sameButCursor (readByte_sameButCursor s) fun _ t _ =>
    bind_sameButCursor (readByte_sameButCursor t) fun _ t _ =>
      bind_sameButCursor (readByte_sameButCursor t) fun _ t _ =>
        bind_sameButCursor (readByte_sameButCursor t) fun _ _ _ => rfl

theorem skipBytes_sameButCursor (n : Nat) (s : State) : s.SameButCursor (skipBytes n s).state := by
  induction n generalizing s with
  | zero => rfl
  | succ n ih => exact bind_sameButCursor (readByte_sameButCursor s) fun _ t _ => ih t

theorem skipZeroTerminated_sameButCursor (s : State) : s.SameButCursor (skipZeroTerminated s).state := by
  have within : ∀ n s, State.SameButCursor s (skipZeroTerminatedWithin n s).state := by
    intro n
    induction n with
    | zero => intro s; rfl
    | succ n ih =>
      intro s
      refine bind_sameButCursor (readByte_sameButCursor s) fun b t _ => ?_
      split
      · rfl
      · exact ih t
  exact within _ s

/-! ### Byte reads -/

theorem State.inPos_lt_iff (s : State) : s.inPos < s.inLen ↔ 1 ≤ s.bytesLeft := by
  simp only [State.bytesLeft, BitVec.lt_def]; omega

theorem State.toNat_pastBytes (s : State) {n : Nat} (h : n ≤ s.bytesLeft) :
    (s.pastBytes n).inPos.toNat = s.inPos.toNat + n := by
  simp only [State.bytesLeft] at h
  have := s.inLen.isLt
  simp only [State.pastBytes_inPos, BitVec.toNat_add, BitVec.toNat_ofNat]
  omega

theorem State.bytesLeft_pastBytes (s : State) {n : Nat} (h : n ≤ s.bytesLeft) :
    (s.pastBytes n).bytesLeft = s.bytesLeft - n := by
  have := s.toNat_pastBytes h
  simp only [State.bytesLeft] at *
  simp only [this, State.pastBytes_inLen]
  omega

theorem State.byteAt_pastBytes (s : State) {n : Nat} (h : n ≤ s.bytesLeft) (k : Nat) :
    (s.pastBytes n).byteAt k = s.byteAt (n + k) := by
  have := s.toNat_pastBytes h
  simp only [State.byteAt, this, ← Nat.add_assoc]
  rfl

theorem State.pastBytes_pastBytes (s : State) (m n : Nat) : (s.pastBytes m).pastBytes n = s.pastBytes (m + n) := by
  simp [State.pastBytes, BitVec.add_assoc, BitVec.ofNat_add]

@[simp] theorem State.pastBytes_zero (s : State) : s.pastBytes 0 = s := by simp [State.pastBytes]

/-- READ_BYTE with input left. -/
theorem readByte_eq {s : State} (h : 1 ≤ s.bytesLeft) : readByte s = .ok (s.byteAt 0) (s.pastBytes 1) := by
  simp [readByte, s.inPos_lt_iff.2 h, State.byteAt, State.pastBytes]

/-- READ_BYTE with none. -/
theorem readByte_stop {s : State} (h : s.bytesLeft = 0) : readByte s = .stop .truncatedIn s := by
  have : ¬ s.inPos < s.inLen := fun h' => by have := s.inPos_lt_iff.1 h'; omega
  simp [readByte, this]

theorem read16LE_eq {s : State} (h : 2 ≤ s.bytesLeft) :
    read16LE s = .ok (s.byteAt 1 ++ s.byteAt 0) (s.pastBytes 2) := by
  have h1 : 1 ≤ s.bytesLeft := by omega
  have h2 := s.bytesLeft_pastBytes h1
  rw [read16LE, readByte_eq h1, Res.bind_ok, readByte_eq (by omega), Res.bind_ok, s.byteAt_pastBytes h1,
    State.pastBytes_pastBytes]

theorem read32LE_eq {s : State} (h : 4 ≤ s.bytesLeft) :
    read32LE s = .ok (s.byteAt 3 ++ s.byteAt 2 ++ s.byteAt 1 ++ s.byteAt 0) (s.pastBytes 4) := by
  have step : ∀ n, n < 4 →
      readByte (s.pastBytes n) = .ok (s.byteAt n) (s.pastBytes (n + 1)) := by
    intro n hn
    have hle : n ≤ s.bytesLeft := by omega
    have hl := s.bytesLeft_pastBytes hle
    rw [readByte_eq (by omega), s.byteAt_pastBytes hle, State.pastBytes_pastBytes]
    rfl
  have s0 := step 0 (by omega)
  rw [State.pastBytes_zero] at s0
  simp only [read32LE, s0, step 1 (by omega), step 2 (by omega), step 3 (by omega), Res.bind_ok]

theorem skipBytes_eq {n : Nat} {s : State} (h : n ≤ s.bytesLeft) : skipBytes n s = .ok () (s.pastBytes n) := by
  induction n generalizing s with
  | zero => simp [skipBytes]
  | succ n ih =>
    have h1 : 1 ≤ s.bytesLeft := by omega
    rw [skipBytes, readByte_eq h1, Res.bind_ok, ih (by rw [s.bytesLeft_pastBytes h1]; omega),
      State.pastBytes_pastBytes, Nat.add_comm]

theorem skipZeroTerminatedWithin_eq {m n : Nat} {s : State} (hm : m = s.bytesLeft) (hn : n < m)
    (hz : s.byteAt n = 0) (hnz : ∀ k, k < n → s.byteAt k ≠ 0) :
    skipZeroTerminatedWithin m s = .ok () (s.pastBytes (n + 1)) := by
  induction n generalizing s m with
  | zero =>
    obtain ⟨m, rfl⟩ : ∃ j, m = j + 1 := ⟨m - 1, by omega⟩
    rw [skipZeroTerminatedWithin, readByte_eq (by omega), Res.bind_ok, if_pos hz]
  | succ n ih =>
    obtain ⟨m, rfl⟩ : ∃ j, m = j + 1 := ⟨m - 1, by omega⟩
    have h1 : 1 ≤ s.bytesLeft := by omega
    have hl := s.bytesLeft_pastBytes h1
    rw [skipZeroTerminatedWithin, readByte_eq h1, Res.bind_ok, if_neg (hnz 0 (by omega)),
      ih (by omega) (by omega) (by rw [s.byteAt_pastBytes h1, Nat.add_comm]; exact hz)
        (fun k hk => by rw [s.byteAt_pastBytes h1, Nat.add_comm]; exact hnz _ (by omega)),
      State.pastBytes_pastBytes, Nat.add_comm]

/-- The skip of a name whose zero byte is the `n`-th byte to come. -/
theorem skipZeroTerminated_eq {n : Nat} {s : State} (hn : n < s.bytesLeft) (hz : s.byteAt n = 0)
    (hnz : ∀ k, k < n → s.byteAt k ≠ 0) : skipZeroTerminated s = .ok () (s.pastBytes (n + 1)) :=
  skipZeroTerminatedWithin_eq rfl hn hz hnz

/-! ### Bit reads -/

theorem State.bitsLeft_pastBits_one {s : State} (h : 1 ≤ s.bitsLeft) : (s.pastBits 1).bitsLeft = s.bitsLeft - 1 := by
  have hc := s.bitcnt.isLt
  have hl := s.inLen.isLt
  simp only [State.bitsLeft, State.bytesLeft] at *
  unfold State.pastBits
  split
  · simp only [BitVec.toNat_sub, BitVec.toNat_ofNat]; omega
  · simp only [BitVec.toNat_add, BitVec.toNat_ofNat]; omega

/-- READ_BIT with a bit left. -/
theorem readBit_eq {s : State} (h : 1 ≤ s.bitsLeft) :
    readBit s = .ok (BitVec.ofBool (s.bitAt 0)) (s.pastBits 1) := by
  by_cases hc : s.bitcnt = 0
  · have hl : 1 ≤ s.bytesLeft := by
      have : s.bitcnt.toNat = 0 := by simp [hc]
      simp only [State.bitsLeft] at h; omega
    have hb : s.bitAt 0 = (s.byteAt 0).getLsbD 0 := by simp [State.bitAt, hc]
    rw [readBit, refill, if_pos hc, readByte_eq hl]
    simp only [Res.bind_ok, hb, State.pastBits, hc]
    simp only [Res.ok.injEq]
    refine ⟨?_, ?_⟩
    · ext i hi
      have : i = 0 := by omega
      subst this
      simp
    · simp [State.pastBytes]
  · have hc' : 1 ≤ s.bitcnt.toNat := by
      rcases Nat.eq_zero_or_pos s.bitcnt.toNat with h0 | h0
      · exact absurd (BitVec.eq_of_toNat_eq (by simpa using h0)) hc
      · exact h0
    have hb : s.bitAt 0 = s.bitbuf.getLsbD 0 := by simp [State.bitAt, show 0 < s.bitcnt.toNat from hc']
    rw [readBit, refill, if_neg hc]
    simp only [Res.bind_ok, hb, State.pastBits, if_pos hc', Res.ok.injEq]
    refine ⟨?_, rfl⟩
    ext i hi
    have : i = 0 := by omega
    subst this
    simp

/-- READ_BIT with none left. -/
theorem readBit_stop {s : State} (h : s.bitsLeft = 0) : readBit s = .stop .truncatedIn s := by
  simp only [State.bitsLeft] at h
  have hc : s.bitcnt = 0 := BitVec.eq_of_toNat_eq (by simp; omega)
  rw [readBit, refill, if_pos hc, readByte_stop (by omega)]
  rfl

theorem State.bitAt_pastBits_one {s : State} (h : 1 ≤ s.bitsLeft) (k : Nat) :
    (s.pastBits 1).bitAt k = s.bitAt (k + 1) := by
  have hl := s.inLen.isLt
  have hcl := s.bitcnt.isLt
  simp only [State.bitsLeft, State.bytesLeft] at h
  by_cases hc : 1 ≤ s.bitcnt.toNat
  · have e : (s.pastBits 1).bitcnt.toNat = s.bitcnt.toNat - 1 := by
      simp only [State.pastBits, if_pos hc, BitVec.toNat_sub, BitVec.toNat_ofNat]; omega
    have eb : (s.pastBits 1).bitbuf = s.bitbuf >>> 1 := by simp only [State.pastBits, if_pos hc]
    have eB : ∀ j, (s.pastBits 1).byteAt j = s.byteAt j := by
      intro j; simp only [State.pastBits, if_pos hc]; rfl
    simp only [State.bitAt, e, eb, eB, show k + 1 - s.bitcnt.toNat = k - (s.bitcnt.toNat - 1) by omega]
    by_cases hk : k < s.bitcnt.toNat - 1
    · simp [hk, show k + 1 < s.bitcnt.toNat by omega, Nat.add_comm]
    · simp [hk, show ¬ k + 1 < s.bitcnt.toNat by omega]
  · have hc0 : s.bitcnt.toNat = 0 := by omega
    have e : (s.pastBits 1).bitcnt.toNat = 7 := by
      simp [State.pastBits, hc0]
    have eb : (s.pastBits 1).bitbuf = s.byteAt 0 >>> 1 := by simp [State.pastBits, hc0]
    have eB : ∀ j, (s.pastBits 1).byteAt j = s.byteAt (j + 1) := by
      intro j
      have hp : (s.pastBits 1).inPos.toNat = s.inPos.toNat + 1 := by
        have : (s.pastBits 1).inPos = s.inPos + 1#32 := by simp [State.pastBits, hc0]
        rw [this, BitVec.toNat_add, BitVec.toNat_ofNat]
        omega
      simp only [State.byteAt, hp, show s.inPos.toNat + 1 + j = s.inPos.toNat + (j + 1) by omega]
      simp only [State.pastBits, if_neg hc]
      rfl
    simp only [State.bitAt, e, eb, eB, hc0]
    by_cases hk : k < 7
    · simp [hk, show (k + 1) / 8 = 0 by omega, show (k + 1) % 8 = k + 1 by omega, Nat.add_comm]
    · rw [if_neg hk, if_neg (by omega), show (k + 1 - 0) / 8 = (k - 7) / 8 + 1 by omega,
        show (k + 1 - 0) % 8 = (k - 7) % 8 by omega]

theorem State.field_pastBits_one {s : State} (h : 1 ≤ s.bitsLeft) (k n : Nat) :
    (s.pastBits 1).field k n = s.field (k + 1) n := by
  induction n generalizing k with
  | zero => rfl
  | succ n ih => simp [State.field, State.bitAt_pastBits_one h, ih]

@[simp] theorem State.pastBits_zero (s : State) : s.pastBits 0 = s := by simp [State.pastBits]

theorem State.pastBits_one_pastBits {s : State} {n : Nat} (h : n + 1 ≤ s.bitsLeft) :
    (s.pastBits 1).pastBits n = s.pastBits (n + 1) := by
  have hl := s.inLen.isLt
  have hcl := s.bitcnt.isLt
  simp only [State.bitsLeft, State.bytesLeft] at h
  by_cases hc : 1 ≤ s.bitcnt.toNat
  · have e : (s.pastBits 1) = { s with bitbuf := s.bitbuf >>> 1, bitcnt := s.bitcnt - 1#4 } := by
      simp only [State.pastBits, if_pos hc]
    have ec : (s.bitcnt - 1#4).toNat = s.bitcnt.toNat - 1 := by
      simp only [BitVec.toNat_sub, BitVec.toNat_ofNat]; omega
    rw [e]
    simp only [State.pastBits, ec, State.byteAt]
    by_cases hn : n + 1 ≤ s.bitcnt.toNat
    · rw [if_pos (by omega), if_pos hn]
      have h1 : s.bitcnt - 1#4 - BitVec.ofNat 4 n = s.bitcnt - BitVec.ofNat 4 (n + 1) := by
        apply BitVec.eq_of_toNat_eq; simp only [BitVec.toNat_sub, BitVec.toNat_ofNat]; omega
      have h2 : s.bitbuf >>> 1 >>> n = s.bitbuf >>> (n + 1) := by rw [← BitVec.shiftRight_add, Nat.add_comm]
      simp [h1, h2]
    · rw [if_neg (by omega), if_neg hn, show n - (s.bitcnt.toNat - 1) = n + 1 - s.bitcnt.toNat by omega]
      rfl
  · have hc0 : s.bitcnt.toNat = 0 := by omega
    have e : (s.pastBits 1) = { s with inPos := s.inPos + 1#32, bitbuf := s.byteAt 0 >>> 1, bitcnt := 7#4 } := by
      simp [State.pastBits, hc0]
    have ep : (s.inPos + 1#32).toNat = s.inPos.toNat + 1 := by
      simp only [BitVec.toNat_add, BitVec.toNat_ofNat]; omega
    rw [e]
    simp only [State.pastBits, hc0, State.byteAt, ep]
    rw [if_neg (show ¬ n + 1 ≤ 0 by omega)]
    by_cases hn : n ≤ 7
    · rw [if_pos (by simpa using hn)]
      have hb : (n + 1 - 0 + 7) / 8 = 1 := by omega
      have h1 : (7#4 - BitVec.ofNat 4 n) = BitVec.ofNat 4 (8 * 1 - (n + 1 - 0)) := by
        apply BitVec.eq_of_toNat_eq; simp only [BitVec.toNat_sub, BitVec.toNat_ofNat]; omega
      have h2 : ∀ v : Byte, v >>> 1 >>> n = v >>> (8 - (8 * 1 - (n + 1 - 0))) := by
        intro v
        rw [← BitVec.shiftRight_add, show 8 - (8 * 1 - (n + 1 - 0)) = 1 + n by omega]
      simp only [hb, h1, h2]
    · rw [if_neg (by simpa using hn)]
      have h7 : (7#4).toNat = 7 := rfl
      have hb : (n + 1 - 0 + 7) / 8 = (n - 7 + 7) / 8 + 1 := by omega
      have hpos : 1 ≤ (n - 7 + 7) / 8 := by omega
      have hcnt : 8 * ((n - 7 + 7) / 8) - (n - 7) = 8 * ((n - 7 + 7) / 8 + 1) - (n + 1 - 0) := by omega
      have hidx : s.inPos.toNat + 1 + ((n - 7 + 7) / 8 - 1) = s.inPos.toNat + ((n - 7 + 7) / 8 + 1 - 1) := by omega
      have hip : s.inPos + 1#32 + BitVec.ofNat 32 ((n - 7 + 7) / 8) = s.inPos + BitVec.ofNat 32 ((n - 7 + 7) / 8 + 1) := by
        rw [BitVec.add_assoc, ← BitVec.ofNat_add, Nat.add_comm 1]
      simp only [h7, hb, hcnt, hidx, hip]
      rfl

theorem ofNat_bit_cons (b : Bool) (x : Nat) :
    BitVec.ofNat 16 x <<< 1 ||| (BitVec.ofBool b).setWidth 16 = BitVec.ofNat 16 (b.toNat + 2 * x) := by
  apply BitVec.eq_of_getLsbD_eq
  intro i hi
  cases i with
  | zero => cases b <;> simp [BitVec.getLsbD_ofNat, -BitVec.getLsbD_eq_getElem]
  | succ i =>
    have h : (b.toNat + 2 * x) / 2 = x := by cases b <;> simp; omega
    have hx : (BitVec.ofNat 16 x).getLsbD i = x.testBit i := by
      rw [BitVec.getLsbD_ofNat, decide_eq_true (by omega : i < 16), Bool.true_and]
    have hy : (BitVec.ofNat 16 (b.toNat + 2 * x)).getLsbD (i + 1) = x.testBit i := by
      rw [BitVec.getLsbD_ofNat, decide_eq_true hi, Bool.true_and, Nat.testBit_succ, h]
    have hb : ((BitVec.ofBool b).setWidth 16).getLsbD (i + 1) = false := by simp
    rw [BitVec.getLsbD_or, hb, hy, BitVec.getLsbD_shiftLeft, Nat.add_sub_cancel, hx]
    simp [hi]

/-- READ_BITS(n) with `n` bits left: their value, least significant bit first, and the state past them. -/
theorem readBits_eq {n : Nat} {s : State} (h : n ≤ s.bitsLeft) :
    readBits n s = .ok (BitVec.ofNat 16 (s.field 0 n)) (s.pastBits n) := by
  induction n generalizing s with
  | zero => simp [readBits, State.field]
  | succ n ih =>
    have h1 : 1 ≤ s.bitsLeft := by omega
    have hl := State.bitsLeft_pastBits_one h1
    rw [readBits, readBit_eq h1, Res.bind_ok, ih (by omega), Res.bind_ok, State.pastBits_one_pastBits h,
      State.field_pastBits_one h1]
    congr 1
    exact ofNat_bit_cons _ _

end Sys2Proof.Machine
end

