-- ==== Sys2Proof/Laws/Huffman.lean ====
section
/-! SUPPORT. The fixed tables are what BUILD makes of the fixed lengths (R142), and what DECODE can do: it reads bits and
nothing else. -/

namespace Sys2Proof.Machine

/-- FL is BUILD of R95's literal/length lengths (R31, R142). -/
theorem fixedLit_is_build : build fixedLitLens = Table.fixedLit := by decide +kernel

/-- FD is BUILD of R95's distance lengths (R31, R142). -/
theorem fixedDist_is_build : build fixedDistLens = Table.fixedDist := by decide +kernel

theorem decodeFrom_sameButCursor (T : Table) (n L : Nat) (cur : Int) (sum : Nat) (s : State) :
    s.SameButCursor (decodeFrom T n L cur sum s).state := by
  induction n generalizing L cur sum s with
  | zero => rfl
  | succ n ih =>
    refine bind_sameButCursor (readBit_sameButCursor s) fun b t _ => ?_
    dsimp only
    split
    · rfl
    · exact ih ..

/-- DECODE changes nothing but the bit cursor. -/
theorem decodeSymbol_sameButCursor (T : Table) (s : State) : s.SameButCursor (decodeSymbol T s).state :=
  decodeFrom_sameButCursor T 15 1 0 0 s

theorem readBased_sameButCursor (base n : Nat) (s : State) : s.SameButCursor (readBased base n s).state :=
  bind_sameButCursor (readBits_sameButCursor n s) fun _ _ _ => rfl

/-- A base and its extra bits, with enough bits left. -/
theorem readBased_eq {base n : Nat} {s : State} (h : n ≤ s.bitsLeft) :
    readBased base n s = .ok (base + (BitVec.ofNat 16 (s.field 0 n)).toNat) (s.pastBits n) := by
  rw [readBased, readBits_eq h, Res.bind_ok]

theorem State.field_lt (s : State) (k n : Nat) : s.field k n < 2 ^ n := by
  induction n generalizing k with
  | zero => simp [State.field]
  | succ n ih =>
    have := ih (k + 1)
    simp only [State.field, Nat.pow_succ]
    cases s.bitAt k <;> simp <;> omega

end Sys2Proof.Machine
end

