-- ==== Sys2Proof/Laws/PerInstr.lean ====
section
/-! SUPPORT. The per-instruction family `Encoding`: the decoder reads back what the encoder writes, one lemma per
constructor. -/

namespace Sys2Proof.Laws.Encoding

/-- Decoding the value of a well-formed element at its slot gives that element. -/
def Statement (i : Instr) : Prop := i.WellFormed → decode (encode i).1 (encode i).2 = .ok i

theorem magic : Statement .magic := fun _ => rfl
theorem method : Statement .method := fun _ => rfl
theorem flags : Statement .flags := fun _ => rfl
theorem skipFixed : Statement .skipFixed := fun _ => rfl
theorem extra : Statement .extra := fun _ => rfl
theorem name : Statement .name := fun _ => rfl
theorem comment : Statement .comment := fun _ => rfl
theorem hcrc : Statement .hcrc := fun _ => rfl
theorem trailer : Statement .trailer := fun _ => rfl
theorem blockStored (f : BitVec 1) : Statement (.blockStored f) := fun _ => by revert f; decide
theorem blockFixed (f : BitVec 1) : Statement (.blockFixed f) := fun _ => by revert f; decide
theorem blockDynamic (f : BitVec 1) : Statement (.blockDynamic f) := fun _ => by revert f; decide
theorem blockReserved (f : BitVec 1) : Statement (.blockReserved f) := fun _ => by revert f; decide
theorem storedLen : Statement .storedLen := fun _ => rfl
theorem dynHdr : Statement .dynHdr := fun _ => rfl
theorem cll : Statement .cll := fun _ => rfl
theorem clLit (sym : Sym) : Statement (.clLit sym) := fun h => by
  have h' : sym.toNat ≤ 15 := by simpa [Instr.WellFormed, Instr.wellFormed, BitVec.le_def] using h
  simp [encode, Instr.slot, Instr.value, decode, decodeCodeLength, h']
theorem clRep16 : Statement .clRep16 := fun _ => rfl
theorem clZero17 : Statement .clZero17 := fun _ => rfl
theorem clZero18 : Statement .clZero18 := fun _ => rfl
theorem lit (sym : Sym) : Statement (.lit sym) := fun h => by
  have h' : sym.toNat ≤ 255 := by simpa [Instr.WellFormed, Instr.wellFormed, BitVec.le_def] using h
  simp [encode, Instr.slot, Instr.value, decode, decodeLitLen, h']
theorem eob : Statement .eob := fun _ => rfl
theorem len257 : Statement .len257 := fun _ => rfl
theorem len258 : Statement .len258 := fun _ => rfl
theorem len259 : Statement .len259 := fun _ => rfl
theorem len260 : Statement .len260 := fun _ => rfl
theorem len261 : Statement .len261 := fun _ => rfl
theorem len262 : Statement .len262 := fun _ => rfl
theorem len263 : Statement .len263 := fun _ => rfl
theorem len264 : Statement .len264 := fun _ => rfl
theorem len265 : Statement .len265 := fun _ => rfl
theorem len266 : Statement .len266 := fun _ => rfl
theorem len267 : Statement .len267 := fun _ => rfl
theorem len268 : Statement .len268 := fun _ => rfl
theorem len269 : Statement .len269 := fun _ => rfl
theorem len270 : Statement .len270 := fun _ => rfl
theorem len271 : Statement .len271 := fun _ => rfl
theorem len272 : Statement .len272 := fun _ => rfl
theorem len273 : Statement .len273 := fun _ => rfl
theorem len274 : Statement .len274 := fun _ => rfl
theorem len275 : Statement .len275 := fun _ => rfl
theorem len276 : Statement .len276 := fun _ => rfl
theorem len277 : Statement .len277 := fun _ => rfl
theorem len278 : Statement .len278 := fun _ => rfl
theorem len279 : Statement .len279 := fun _ => rfl
theorem len280 : Statement .len280 := fun _ => rfl
theorem len281 : Statement .len281 := fun _ => rfl
theorem len282 : Statement .len282 := fun _ => rfl
theorem len283 : Statement .len283 := fun _ => rfl
theorem len284 : Statement .len284 := fun _ => rfl
theorem len285 : Statement .len285 := fun _ => rfl
theorem invalidLen (sym : Sym) : Statement (.invalidLen sym) := fun h => by
  have h' : sym = 286 ∨ sym = 287 := by simpa [Instr.WellFormed, Instr.wellFormed] using h
  rcases h' with rfl | rfl <;> rfl
theorem dist0 : Statement .dist0 := fun _ => rfl
theorem dist1 : Statement .dist1 := fun _ => rfl
theorem dist2 : Statement .dist2 := fun _ => rfl
theorem dist3 : Statement .dist3 := fun _ => rfl
theorem dist4 : Statement .dist4 := fun _ => rfl
theorem dist5 : Statement .dist5 := fun _ => rfl
theorem dist6 : Statement .dist6 := fun _ => rfl
theorem dist7 : Statement .dist7 := fun _ => rfl
theorem dist8 : Statement .dist8 := fun _ => rfl
theorem dist9 : Statement .dist9 := fun _ => rfl
theorem dist10 : Statement .dist10 := fun _ => rfl
theorem dist11 : Statement .dist11 := fun _ => rfl
theorem dist12 : Statement .dist12 := fun _ => rfl
theorem dist13 : Statement .dist13 := fun _ => rfl
theorem dist14 : Statement .dist14 := fun _ => rfl
theorem dist15 : Statement .dist15 := fun _ => rfl
theorem dist16 : Statement .dist16 := fun _ => rfl
theorem dist17 : Statement .dist17 := fun _ => rfl
theorem dist18 : Statement .dist18 := fun _ => rfl
theorem dist19 : Statement .dist19 := fun _ => rfl
theorem dist20 : Statement .dist20 := fun _ => rfl
theorem dist21 : Statement .dist21 := fun _ => rfl
theorem dist22 : Statement .dist22 := fun _ => rfl
theorem dist23 : Statement .dist23 := fun _ => rfl
theorem dist24 : Statement .dist24 := fun _ => rfl
theorem dist25 : Statement .dist25 := fun _ => rfl
theorem dist26 : Statement .dist26 := fun _ => rfl
theorem dist27 : Statement .dist27 := fun _ => rfl
theorem dist28 : Statement .dist28 := fun _ => rfl
theorem dist29 : Statement .dist29 := fun _ => rfl
theorem invalidDist (sym : Sym) : Statement (.invalidDist sym) := fun h => by
  have h' : sym = 30 ∨ sym = 31 := by simpa [Instr.WellFormed, Instr.wellFormed] using h
  rcases h' with rfl | rfl <;> rfl

end Sys2Proof.Laws.Encoding
end

