-- ==== Sys2Proof/Laws/Ring.lean ====
section
/-! SUPPORT. What EMIT, COPY_BACK and the copy loops can do: each emits some bytes in order, all of them where the output
has room, and stops with Truncated (detail 1) at the first that does not fit. -/

namespace Sys2Proof.Machine

theorem State.outPos_lt_iff (s : State) : s.outPos < s.outCap ↔ 1 ≤ s.room := by
  simp only [State.room, BitVec.lt_def]; omega

/-- EMIT with room. -/
theorem emit_eq {b : Byte} {s : State} (h : 1 ≤ s.room) : emit b s = .ok () (s.push b) := by
  simp [emit, s.outPos_lt_iff.2 h]

/-- EMIT into a full output: nothing is written. -/
theorem emit_stop {b : Byte} {s : State} (h : s.room = 0) : emit b s = .stop .truncatedOut s := by
  have : ¬ s.outPos < s.outCap := fun h' => by have := s.outPos_lt_iff.1 h'; omega
  simp [emit, this]

theorem State.toNat_outPos_push {s : State} (b : Byte) (h : 1 ≤ s.room) :
    (s.push b).outPos.toNat = s.outPos.toNat + 1 := by
  have := s.outCap.isLt
  simp only [State.room] at h
  have h1 : (1 : Word).toNat = 1 := rfl
  simp only [State.push_outPos, BitVec.toNat_add, h1]
  omega

theorem State.room_push {s : State} (b : Byte) (h : 1 ≤ s.room) : (s.push b).room = s.room - 1 := by
  have := s.toNat_outPos_push b h
  simp only [State.room] at *
  simp only [this, State.push_outCap]
  omega

theorem State.toNat_wcur_push (s : State) (b : Byte) : (s.push b).wcur.toNat = (s.wcur.toNat + 1) % 32768 := by
  simp [BitVec.toNat_add]

/-- The byte EMIT writes to host memory stands at OUT_BASE + out_pos, and no other byte changes. -/
theorem State.hostByte_push (s : State) (b : Byte) (a : Nat) :
    (s.push b).hostByte a = if a = s.outBase.toNat + s.outPos.toNat then b else s.hostByte a := by
  simp only [State.hostByte, State.push_mem, State.push_lost, Memory.get?_set]
  split <;> simp

/-- The slot EMIT writes is `ring[wcur]`, and no other slot changes. -/
theorem State.ringByte_push (s : State) (b : Byte) (i : Nat) :
    (s.push b).ringByte i = if i = s.wcur.toNat then b else s.ringByte i := by
  simp only [State.ringByte, State.push_ring, State.push_session, Memory.get?_set]
  split <;> simp

@[simp] theorem State.pushAll_nil (s : State) : State.pushAll [] s = s := rfl
@[simp] theorem State.pushAll_cons (b : Byte) (bs : List Byte) (s : State) :
    State.pushAll (b :: bs) s = State.pushAll bs (s.push b) := rfl

theorem State.pushAll_append (as bs : List Byte) (s : State) :
    State.pushAll (as ++ bs) s = State.pushAll bs (State.pushAll as s) := by
  induction as generalizing s with
  | nil => rfl
  | cons a as ih => simp [ih]

/-- A match emits some bytes: all `n` of them, or fewer and then the stop of a full output (R178). -/
theorem copyMatch_emits (n : Nat) (d : BitVec 16) (s : State) :
    (∃ bs, bs.length = n ∧ copyMatch n d s = .ok () (s.pushAll bs)) ∨
    (∃ bs, bs.length < n ∧ bs.length = s.room ∧ copyMatch n d s = .stop .truncatedOut (s.pushAll bs)) := by
  induction n generalizing s with
  | zero => exact .inl ⟨[], rfl, rfl⟩
  | succ n ih =>
    rcases Nat.eq_zero_or_pos s.room with h | h
    · exact .inr ⟨[], by simp, by simp [h], by simp [copyMatch, copyBack, emit_stop h]⟩
    · have he := emit_eq (b := s.ringByte (copySource s d)) h
      have hr := State.room_push (s.ringByte (copySource s d)) h
      simp only [copyMatch, copyBack, he, Res.bind_ok]
      rcases ih (s.push (s.ringByte (copySource s d))) with ⟨bs, hl, hb⟩ | ⟨bs, hl, hl', hb⟩
      · exact .inl ⟨_ :: bs, by simp [hl], hb⟩
      · exact .inr ⟨_ :: bs, by simp [hl], by simp only [List.length_cons, hl', hr]; omega, hb⟩

end Sys2Proof.Machine
end

