-- ==== Sys2Proof/Laws/Step.lean ====
section
/-! SUPPORT. What one step can do, said once: the fetch of a symbol, a step of the core, a move of the host, and their
sum. -/

namespace Sys2Proof.Machine

/-- A symbol fetched: DECODE answered it, and `sym` holds it. -/
theorem fetchSymbol_eq_ok {T : Table} {s u : State} {y : Sym} :
    fetchSymbol T s = .ok y u ↔ ∃ t, decodeSymbol T s = .ok y t ∧ u = { t with work := { t.work with sym := y } } := by
  unfold fetchSymbol
  cases decodeSymbol T s with
  | ok z t =>
    simp only [Res.bind_ok, Res.ok.injEq]
    exact ⟨fun ⟨hz, hu⟩ => ⟨t, ⟨hz, rfl⟩, hz ▸ hu.symm⟩, fun ⟨_, ⟨hz, ht⟩, hu⟩ => ⟨hz, ht ▸ hz ▸ hu.symm⟩⟩
  | stop r t => simp

/-- A fetch of a symbol stops where DECODE does. -/
theorem fetchSymbol_eq_stop {T : Table} {s u : State} {r : Stop} :
    fetchSymbol T s = .stop r u ↔ decodeSymbol T s = .stop r u := by
  unfold fetchSymbol
  cases decodeSymbol T s <;> simp

/-- A step of the core that answers a next state: it holds, or the fetch has stopped, or the fetched element has run. -/
theorem coreStep_next {s t : State} (h : coreStep s = .next t) :
    (s.state ≠ .busy ∧ t = s) ∨ (s.state = .busy ∧ ∃ r u, fetch s = .stop r u ∧ t = u.enterStop r) ∨
      (s.state = .busy ∧ ∃ i u, fetch s = .ok (.ok i) u ∧ exec i u = .next t) := by
  unfold coreStep at h
  split at h
  · rename_i hb
    split at h
    · rename_i r u hf
      exact .inr (.inl ⟨hb, r, u, hf, by injection h with h; exact h.symm⟩)
    · cases h
    · rename_i i u hf
      exact .inr (.inr ⟨hb, i, u, hf, h⟩)
  · rename_i hb
    exact .inl ⟨hb, by injection h with h; exact h.symm⟩

/-- A register read changes only the model's own fields on the host's side. -/
theorem State.readReg_frame (s : State) (off : Word) :
    s.readReg off =
      { s with
        busData := (s.readReg off).busData, freeCount := (s.readReg off).freeCount, unseen := (s.readReg off).unseen } := by
  unfold State.readReg
  split <;> try rfl
  · unfold State.readStatus
    split <;> rfl
  · unfold State.readCount
    split <;> rfl
  · unfold State.readCount
    split <;> rfl

/-- A host read of memory changes only the model's own fields on the host's side. -/
theorem State.readMem_frame (s : State) (a : Nat) :
    s.readMem a = { s with busData := (s.readMem a).busData, freeCount := (s.readMem a).freeCount } := by
  unfold State.readMem
  split <;> rfl

/-- A register write that answers a next state: ignored, or one of the four writable registers, or START. -/
theorem State.writeReg_next {s t : State} {off v : Word} (h : s.writeReg off v = .next t) :
    t = s ∨
      (s.state ≠ .busy ∧
        t = { s with inBase := t.inBase, inLen := t.inLen, outBase := t.outBase, outCap := t.outCap }) ∨
      (s.state ≠ .busy ∧ s.regionWraps = false ∧ s.regionsOverlap = false ∧ t = s.startSession) := by
  unfold State.writeReg at h
  split at h
  · injection h with h
    exact .inl h.symm
  · rename_i hb
    split at h
    · split at h
      · unfold State.start at h
        split at h
        · cases h
        · rename_i hw
          split at h
          · cases h
          · rename_i ho
            injection h with h
            exact .inr (.inr ⟨hb, by simpa using hw, by simpa using ho, h.symm⟩)
      · injection h with h
        exact .inl h.symm
    · injection h with h
      exact .inr (.inl ⟨hb, by subst h; rfl⟩)
    · injection h with h
      exact .inr (.inl ⟨hb, by subst h; rfl⟩)
    · injection h with h
      exact .inr (.inl ⟨hb, by subst h; rfl⟩)
    · injection h with h
      exact .inr (.inl ⟨hb, by subst h; rfl⟩)
    · injection h with h
      exact .inl h.symm

/-- A move of the host that answers a next state: a read, a register written while not BUSY, START, a byte written outside
the regions of a session, or power-on reset. -/
theorem hostStep_next {m : HostMove} {s t : State} (h : hostStep m s = .next t) :
    t = { s with busData := t.busData, freeCount := t.freeCount, unseen := t.unseen } ∨
      (s.state ≠ .busy ∧
        t = { s with inBase := t.inBase, inLen := t.inLen, outBase := t.outBase, outCap := t.outCap }) ∨
      (s.state ≠ .busy ∧ s.regionWraps = false ∧ s.regionsOverlap = false ∧ t = s.startSession) ∨
      (∃ addr b, (s.state = .busy → s.inInput addr = false ∧ s.inOutput addr = false) ∧
        t = { s with mem := Memory.set s.mem addr b }) ∨
      t = s.powerOn := by
  cases m with
  | idle =>
    injection h with h
    exact .inl (by subst h; rfl)
  | regRead addr bytes =>
    simp only [hostStep] at h
    split at h
    · cases h
    · split at h
      · cases h
      · injection h with h
        exact .inl (by subst h; exact State.readReg_frame ..)
  | regWrite addr bytes v =>
    simp only [hostStep] at h
    split at h
    · cases h
    · split at h
      · cases h
      · rcases State.writeReg_next h with rfl | h | h
        · exact .inl rfl
        · exact .inr (.inl h)
        · exact .inr (.inr (.inl h))
  | memRead addr =>
    simp only [hostStep] at h
    split at h
    · cases h
    · split at h
      · cases h
      · injection h with h
        have e := State.readMem_frame s addr.toNat
        rw [h] at e
        exact .inl (by rw [e])
  | memWrite addr b =>
    simp only [hostStep] at h
    split at h
    · cases h
    · split at h
      · cases h
      · rename_i hi
        split at h
        · cases h
        · rename_i ho
          injection h with h
          refine .inr (.inr (.inr (.inl ⟨addr.toNat, b, fun hb => ?_, h.symm⟩)))
          simp only [hb, true_and] at hi ho
          exact ⟨by simpa using hi, by simpa using ho⟩
  | powerOn =>
    injection h with h
    exact .inr (.inr (.inr (.inr h.symm)))

/-- A step is a step of the core, where the host makes no move or idles, or one of the host's moves. -/
theorem step_cases (s : State) :
    (s.host = [] ∧ step s = coreStep s) ∨
      (∃ rest, s.host = .idle :: rest ∧ step s = coreStep { s with host := rest }) ∨
      ∃ m rest, s.host = m :: rest ∧ step s = hostStep m { s with host := rest } := by
  unfold step
  split
  · exact .inl ⟨‹_›, rfl⟩
  · exact .inr (.inl ⟨_, ‹_›, rfl⟩)
  · exact .inr (.inr ⟨_, _, ‹_›, rfl⟩)

end Sys2Proof.Machine
end

