-- ==== Sys2Proof/Laws/Tables.lean ====
section
/-! SUPPORT. What the shared operations that are left can do: stop entry on host memory, a bit field cut short, and
appending code lengths. -/

namespace Sys2Proof.Machine

/-- Stop entry on host memory: the output from `out_pos` on has fresh free values, every other byte is kept. -/
theorem State.hostByte_enterStop (r : Stop) (s : State) (a : Nat) :
    (s.enterStop r).hostByte a =
      if s.outBase.toNat + s.outPos.toNat ≤ a ∧ a < s.outBase.toNat + s.outCap.toNat then
        Config.hostByte (s.lost.length + 1) a
      else s.hostByte a := by
  simp only [State.hostByte, State.enterStop_mem, State.enterStop_lost, Memory.get?_forget, epochOf]
  split <;> simp

/-- A bit field the input does not hold: every bit is consumed and the stop is Truncated (R121, R122). -/
theorem readBits_stop {n : Nat} {s : State} (h : s.bitsLeft < n) :
    ∃ t, readBits n s = .stop .truncatedIn t ∧ t.bitsLeft = 0 := by
  induction n generalizing s with
  | zero => omega
  | succ n ih =>
    rcases Nat.eq_zero_or_pos s.bitsLeft with hz | hp
    · exact ⟨s, by rw [readBits, readBit_stop hz, Res.bind_stop], hz⟩
    · have hb := State.bitsLeft_pastBits_one hp
      obtain ⟨t, ht, h0⟩ := ih (s := s.pastBits 1) (by omega)
      exact ⟨t, by rw [readBits, readBit_eq hp, Res.bind_ok, ht, Res.bind_stop], h0⟩

/-- `lens` after code lengths have been appended. -/
theorem State.codeLen_pushCodeLens (s : State) (n k : Nat) (v : BitVec 4) :
    (s.pushCodeLens n v).codeLen k =
      if s.work.li.toNat ≤ k ∧ k < s.work.li.toNat + n then v else s.codeLen k := by
  simp only [State.pushCodeLens, State.codeLen, Memory.get?_fill]
  split <;> simp

/-- Appending code lengths that fit, and what comes next (R199 to R204). -/
theorem State.codeLengthsAdded (s : State) (n : Nat) (v : BitVec 4)
    (h : s.work.li.toNat + n ≤ s.work.ncodes.toNat) :
    s.CodeLengthsAdded (s.pushCodeLens n v).nextCodeLength n v := by
  have hb : s.work.ncodes.toNat < 512 := s.work.ncodes.isLt
  have hli : (s.work.li + BitVec.ofNat 9 n).toNat = s.work.li.toNat + n := by
    simp only [BitVec.toNat_add, BitVec.toNat_ofNat]
    omega
  have hlt : (s.work.li + BitVec.ofNat 9 n < s.work.ncodes) ↔ s.work.li.toNat + n < s.work.ncodes.toNat := by
    rw [BitVec.lt_def, hli]
  have hlen := fun k => State.codeLen_pushCodeLens s n k v
  by_cases hc : s.work.li.toNat + n < s.work.ncodes.toNat
  · have e : (s.pushCodeLens n v).nextCodeLength = { s.pushCodeLens n v with slot := .clSymbol } :=
      if_pos (hlt.2 hc)
    rw [e]
    exact ⟨hlen, rfl, fun _ => rfl, fun h' => absurd h' (by omega), fun h' => absurd h' (by omega)⟩
  · have e : (s.pushCodeLens n v).nextCodeLength = (s.pushCodeLens n v).buildTables := if_neg fun h' => hc (hlt.1 h')
    rw [e]
    refine ⟨hlen, rfl, fun h' => absurd h' hc, fun _ => ?_, fun _ => State.mem_phasesHeld_setPhase _ .huffman⟩
    have e1 : ∀ (u : State) m, u.codeLens 0 m = (List.range m).map u.codeLen := fun u m => by
      rw [State.codeLens, List.range_eq_range']
    have e2 : ∀ (u : State) a m, u.codeLens a m = (List.range m).map fun k => u.codeLen (a + k) := fun u a m => by
      rw [State.codeLens, List.range'_eq_map_range, List.map_map]
      rfl
    simp only [State.buildTables, e1, e2]
    rfl

end Sys2Proof.Machine
end

