-- ==== Sys2Proof/Tests/Slice0.lean ====
section
/-! SUPPORT. Tests: the ill-formed terms, each constructor's word, single steps with the results of spec/95_test_vectors.md
(the id of the vector stands in each docstring), and for each statement with hypotheses a state and operands that meet
them. -/

namespace Sys2Proof.Tests

open Sys2Proof.Machine

set_option maxRecDepth 8192

/-- The next state of an outcome. -/
def after (o : Host.Outcome State Fault Refusal) : Option State :=
  match o with
  | .next s => some s
  | .fault _ => none
  | .refused _ => none

/-- What `f` sees of the next state. -/
def see {α : Type} (f : State → α) (o : Host.Outcome State Fault Refusal) : Option α := (after o).map f

/-- The value and what `f` sees of the state after a micro-operation that does not raise. -/
def okOf {α β : Type} (f : State → β) (r : Res α) : Option (α × β) :=
  match r with
  | .ok a s => some (a, f s)
  | .stop _ _ => none

/-- The stop and what `f` sees of the state at the raise. -/
def stopOf {α β : Type} (f : State → β) (r : Res α) : Option (Stop × β) :=
  match r with
  | .ok _ _ => none
  | .stop k s => some (k, f s)

/-- A session at a slot: the bytes are its input, at host address 0x100; the output has `cap` bytes, at 0x200. -/
def sess (slot : Slot) (phase : Phase) (bytes : List Byte) (cap : Nat := 8) : State :=
  { State.reset with
    state := .busy, slot := slot, phase := phase, phasesHeld := [phase]
    inBase := 0x100, inLen := BitVec.ofNat 32 bytes.length, outBase := 0x200, outCap := BitVec.ofNat 32 cap
    mem := placeBytes bytes 0x100 [] }

/-- The session with bits already in `bitbuf`. -/
def withBits (bits : Byte) (n : Nat) (s : State) : State := { s with bitbuf := bits, bitcnt := BitVec.ofNat 4 n }

/-- The session with `li` code lengths read of `n`, `hlit` 0 and `hdist` what `n` says. -/
def withLi (li n : Nat) (s : State) : State :=
  { s with work := { s.work with li := BitVec.ofNat 9 li, ncodes := BitVec.ofNat 9 n, hdist := BitVec.ofNat 5 (n - 258) } }

/-- The session after `bs` have been emitted. -/
def withOut (bs : List Byte) (s : State) : State := State.pushAll bs s

/-- L1-7's code lengths. -/
def lens8 : List (BitVec 4) := [3, 3, 3, 3, 3, 2, 4, 4]

/-- What a stop shows: class, kind, detail. -/
def stopped (s : State) : SessionState × StopClass × BitVec 4 × BitVec 1 := (s.state, s.cls, s.kind, s.detail)

/-! ### WellFormed -/

/-- R200: a literal code length is at most 15. -/
theorem test_wf_cl_lit_16 : ¬ (Instr.clLit 16).WellFormed := by decide

/-- R171: a literal is at most 255. -/
theorem test_wf_lit_256 : ¬ (Instr.lit 256).WellFormed := by decide

/-- R175: the invalid length symbols are 286 and 287. -/
theorem test_wf_invalid_len_285 : ¬ (Instr.invalidLen 285).WellFormed := by decide

/-- R176: the invalid distance symbols are 30 and 31. -/
theorem test_wf_invalid_dist_29 : ¬ (Instr.invalidDist 29).WellFormed := by decide

/-! ### Decoding: each constructor by its word, from spec/opcode_table.json -/

/-- The container: 1F 8B as a 16-bit word, low byte first (R81); CM 8 (R222); the other fields have no fixed bits. -/
theorem test_decode_container :
    decode .magic 0b1000101100011111 = .ok .magic ∧ decode .method 0b00001000 = .ok .method ∧
      decode .flags 0b00000000 = .ok .flags ∧ decode .skipFixed 0 = .ok .skipFixed ∧ decode .extra 0 = .ok .extra ∧
      decode .name 0 = .ok .name ∧ decode .comment 0 = .ok .comment ∧ decode .hcrc 0 = .ok .hcrc ∧
      decode .trailer 0 = .ok .trailer := by decide

/-- Block headers (R85, R86): bit 0 is BFINAL, bits 2:1 are BTYPE. The rest of a stored block and of a dynamic one. -/
theorem test_decode_block :
    decode .blockHeader 0b000 = .ok (.blockStored 0) ∧ decode .blockHeader 0b001 = .ok (.blockStored 1) ∧
      decode .blockHeader 0b010 = .ok (.blockFixed 0) ∧ decode .blockHeader 0b011 = .ok (.blockFixed 1) ∧
      decode .blockHeader 0b100 = .ok (.blockDynamic 0) ∧ decode .blockHeader 0b101 = .ok (.blockDynamic 1) ∧
      decode .blockHeader 0b110 = .ok (.blockReserved 0) ∧ decode .blockHeader 0b111 = .ok (.blockReserved 1) ∧
      decode .storedLen 0 = .ok .storedLen ∧ decode .dynHdr 0 = .ok .dynHdr ∧ decode .cll 0 = .ok .cll := by decide

/-- Code-length symbols (R90). -/
theorem test_decode_code_length :
    decode .clSymbol 0b00000 = .ok (.clLit 0) ∧ decode .clSymbol 0b01111 = .ok (.clLit 15) ∧
      decode .clSymbol 0b10000 = .ok .clRep16 ∧ decode .clSymbol 0b10001 = .ok .clZero17 ∧
      decode .clSymbol 0b10010 = .ok .clZero18 ∧ decode .clSymbol 0b10011 = .error .notCodeLengthSymbol := by decide

/-- Literal/length symbols (R91): literals, end of block, the invalid ones, and the first that is none. -/
theorem test_decode_literal :
    decode .litLen 0b000000000 = .ok (.lit 0) ∧ decode .litLen 0b011111111 = .ok (.lit 255) ∧
      decode .litLen 0b100000000 = .ok .eob ∧ decode .litLen 0b100011110 = .ok (.invalidLen 286) ∧
      decode .litLen 0b100011111 = .ok (.invalidLen 287) ∧
      decode .litLen 0b100100000 = .error .notLiteralLengthSymbol := by decide

/-- Length symbols 257..271 (R91). -/
theorem test_decode_length_low :
    decode .litLen 0b100000001 = .ok .len257 ∧ decode .litLen 0b100000010 = .ok .len258 ∧
      decode .litLen 0b100000011 = .ok .len259 ∧ decode .litLen 0b100000100 = .ok .len260 ∧
      decode .litLen 0b100000101 = .ok .len261 ∧ decode .litLen 0b100000110 = .ok .len262 ∧
      decode .litLen 0b100000111 = .ok .len263 ∧ decode .litLen 0b100001000 = .ok .len264 ∧
      decode .litLen 0b100001001 = .ok .len265 ∧ decode .litLen 0b100001010 = .ok .len266 ∧
      decode .litLen 0b100001011 = .ok .len267 ∧ decode .litLen 0b100001100 = .ok .len268 ∧
      decode .litLen 0b100001101 = .ok .len269 ∧ decode .litLen 0b100001110 = .ok .len270 ∧
      decode .litLen 0b100001111 = .ok .len271 := by decide

/-- Length symbols 272..285 (R91). -/
theorem test_decode_length_high :
    decode .litLen 0b100010000 = .ok .len272 ∧ decode .litLen 0b100010001 = .ok .len273 ∧
      decode .litLen 0b100010010 = .ok .len274 ∧ decode .litLen 0b100010011 = .ok .len275 ∧
      decode .litLen 0b100010100 = .ok .len276 ∧ decode .litLen 0b100010101 = .ok .len277 ∧
      decode .litLen 0b100010110 = .ok .len278 ∧ decode .litLen 0b100010111 = .ok .len279 ∧
      decode .litLen 0b100011000 = .ok .len280 ∧ decode .litLen 0b100011001 = .ok .len281 ∧
      decode .litLen 0b100011010 = .ok .len282 ∧ decode .litLen 0b100011011 = .ok .len283 ∧
      decode .litLen 0b100011100 = .ok .len284 ∧ decode .litLen 0b100011101 = .ok .len285 := by decide

/-- Distance symbols 0..15 (R93). -/
theorem test_decode_distance_low :
    decode .dist 0b00000 = .ok .dist0 ∧ decode .dist 0b00001 = .ok .dist1 ∧ decode .dist 0b00010 = .ok .dist2 ∧
      decode .dist 0b00011 = .ok .dist3 ∧ decode .dist 0b00100 = .ok .dist4 ∧ decode .dist 0b00101 = .ok .dist5 ∧
      decode .dist 0b00110 = .ok .dist6 ∧ decode .dist 0b00111 = .ok .dist7 ∧ decode .dist 0b01000 = .ok .dist8 ∧
      decode .dist 0b01001 = .ok .dist9 ∧ decode .dist 0b01010 = .ok .dist10 ∧ decode .dist 0b01011 = .ok .dist11 ∧
      decode .dist 0b01100 = .ok .dist12 ∧ decode .dist 0b01101 = .ok .dist13 ∧ decode .dist 0b01110 = .ok .dist14 ∧
      decode .dist 0b01111 = .ok .dist15 := by decide

/-- Distance symbols 16..31 (R93), and the first value that is none. -/
theorem test_decode_distance_high :
    decode .dist 0b10000 = .ok .dist16 ∧ decode .dist 0b10001 = .ok .dist17 ∧ decode .dist 0b10010 = .ok .dist18 ∧
      decode .dist 0b10011 = .ok .dist19 ∧ decode .dist 0b10100 = .ok .dist20 ∧ decode .dist 0b10101 = .ok .dist21 ∧
      decode .dist 0b10110 = .ok .dist22 ∧ decode .dist 0b10111 = .ok .dist23 ∧ decode .dist 0b11000 = .ok .dist24 ∧
      decode .dist 0b11001 = .ok .dist25 ∧ decode .dist 0b11010 = .ok .dist26 ∧ decode .dist 0b11011 = .ok .dist27 ∧
      decode .dist 0b11100 = .ok .dist28 ∧ decode .dist 0b11101 = .ok .dist29 ∧
      decode .dist 0b11110 = .ok (.invalidDist 30) ∧ decode .dist 0b11111 = .ok (.invalidDist 31) ∧
      decode .dist 0b100000 = .error .notDistanceSymbol := by decide

/-! ### Micro-operations -/

/-- BR-4: READ_BITS(3) of B5 is 5. -/
theorem test_read_bits_3 :
    okOf (fun t => (t.inPos, t.bitcnt, t.bitbuf)) (readBits 3 (sess .magic .gzHeader [0xB5])) = some (5, 1, 5, 0x16) := by
  decide

/-- BR-5: READ_BITS(13) across two byte borders. -/
theorem test_read_bits_13 :
    okOf (fun t => (t.inPos, t.bitcnt, t.bitbuf)) (readBits 13 (withBits 5 3 (sess .magic .gzHeader [0xAA, 0x55]))) =
      some (0x0D55, 2, 6, 0x15) := by decide

/-- H-1: BUILD of (2, 1, 3, 3). -/
theorem test_build :
    (build [2, 1, 3, 3]).symbols = [1, 0, 2, 3] ∧
      (List.range 16).map (build [2, 1, 3, 3]).count = [0, 1, 1, 2, 0, 0, 0, 0, 0, 0, 0, 0, 0, 0, 0, 0] := by decide

/-- H-2: the code 110 of H-1's table, first bit in bit 0: the byte 3. -/
theorem test_decode_symbol :
    okOf (fun t => (t.inPos, t.bitcnt)) (decodeSymbol (build [2, 1, 3, 3]) (sess .litLen .huffman [3])) =
      some (2, 1, 5) := by decide

/-- H-4: the bit 1 is no code of a single-code table; 15 bits are read. -/
theorem test_decode_symbol_incomplete :
    stopOf (fun t => (t.inPos, t.bitcnt)) (decodeSymbol (build [1]) (sess .litLen .huffman [0xFF, 0xFF])) =
      some (.huffmanNoSymbol, 2, 1) := by decide

/-- H-7: `111111111` is 255 by FL, 9 bits. -/
theorem test_decode_fixed_255 :
    okOf (fun t => (t.inPos, t.bitcnt)) (decodeSymbol Table.fixedLit (sess .litLen .huffman [0xFF, 0xFF])) =
      some (255, 2, 7) := by decide

/-- RB-1: EMIT into the last ring slot and the last output byte. -/
theorem test_emit_wraps :
    okOf (fun t => (t.wcur, t.outPos, t.ringByte 32767, t.outByte 5))
      (emit 0x41 { sess .litLen .huffman [] 6 with wcur := 32767, outPos := 5 }) = some ((), 0, 6, 0x41, 0x41) := by decide

/-! ### The container -/

/-- L1-1: the two magic bytes. -/
theorem test_magic :
    see (fun t => (t.inPos, t.slot)) (exec .magic (sess .magic .gzHeader [0x1F, 0x8B])) = some (2, .method) := by decide

/-- L1-2: 1F 8C is BadMagic, and the byte after it is not read. -/
theorem test_magic_bad :
    see (fun t => (t.inPos, t.status)) (exec .magic (sess .magic .gzHeader [0x1F, 0x8C, 8])) = some (2, 0x00001013) := by
  decide

/-- L1-1: compression method 8. -/
theorem test_method :
    see (fun t => (t.inPos, t.slot)) (exec .method (sess .method .gzHeader [8])) = some (1, .flags) := by decide

/-- GZ-5: compression method 7. -/
theorem test_method_bad :
    see (fun t => (t.inPos, t.status)) (exec .method (sess .method .gzHeader [7])) = some (1, 0x00001023) := by decide

/-- GZ-9: FLG E1 is kept and not rejected. -/
theorem test_flags :
    see (fun t => (t.work.flg, t.slot)) (exec .flags (sess .flags .gzHeader [0xE1])) = some (0xE1, .skipFixed) := by decide

/-- L1-1: six bytes, and with FLG 0 the blocks. -/
theorem test_skip_fixed :
    see (fun t => (t.inPos, t.slot)) (exec .skipFixed (sess .skipFixed .gzHeader [0, 0, 0, 0, 0, 3])) =
      some (6, .blockHeader) := by decide

/-- GZ-6: with FLG 1E the extra field comes first. -/
theorem test_skip_fixed_flags :
    see (fun t => t.slot)
      (exec .skipFixed { sess .skipFixed .gzHeader [0, 0, 0, 0, 0, 3] with work := { WorkRegs.zero with flg := 0x1E } }) =
      some .extra := by decide

/-- GZ-6: XLEN 2 and its two bytes. -/
theorem test_extra :
    see (fun t => (t.inPos, t.work.xlen, t.slot)) (exec .extra (sess .extra .gzHeader [2, 0, 0xAA, 0xBB, 0x61])) =
      some (4, 2, .blockHeader) := by decide

/-- GZ-6: the name is six bytes with its zero. -/
theorem test_name :
    see (fun t => (t.inPos, t.slot)) (exec .name (sess .name .gzHeader [0x61, 0x2E, 0x74, 0x78, 0x74, 0, 0])) =
      some (6, .blockHeader) := by decide

/-- GZ-8: a name without a zero byte. -/
theorem test_name_endless :
    see (fun t => (t.inPos, stopped t)) (exec .name (sess .name .gzHeader [0x61, 0x62, 0x63])) =
      some (3, .failed, .failure, 5, 0) := by decide

/-- GZ-6: an empty comment, then the header CRC. -/
theorem test_comment :
    see (fun t => (t.inPos, t.slot))
      (exec .comment { sess .comment .gzHeader [0, 0x12] with work := { WorkRegs.zero with flg := 0x1E } }) =
      some (1, .hcrc) := by decide

/-- GZ-6: the header CRC 12 34 is compared with nothing. -/
theorem test_hcrc :
    see (fun t => (t.inPos, t.slot)) (exec .hcrc (sess .hcrc .gzHeader [0x12, 0x34])) = some (2, .blockHeader) := by decide

/-- L1-1: the trailer's two fields, then success. -/
theorem test_trailer :
    see (fun t => (t.crcField, t.isizeField, t.status))
      (exec .trailer { sess .trailer .huffman [0x8B, 0x9E, 0xD9, 0xD3, 1, 0, 0, 0] with isFinal := 1 }) =
      some (0xD3D99E8B, 1, 0x00017002) := by decide

/-- GZ-11: seven bytes latch the CRC and stop. -/
theorem test_trailer_short :
    see (fun t => (t.crcField, t.isizeField, t.status))
      (exec .trailer { sess .trailer .huffman [0x8B, 0x9E, 0xD9, 0xD3, 1, 0, 0] with isFinal := 1 }) =
      some (0xD3D99E8B, 0, 0x00016053) := by decide

/-! ### Blocks -/

/-- DB-1: the byte 73 is `BLOCK 1, FIXED`; five bits stay. -/
theorem test_block_fixed :
    see (fun t => (t.isFinal, t.btype, t.bitcnt, t.bitbuf, t.slot)) (step (sess .blockHeader .gzHeader [0x73])) =
      some (1, 1, 5, 0x0E, .litLen) := by decide

/-- DB-2: the byte 01 is `BLOCK 1, STORED`. -/
theorem test_block_stored :
    see (fun t => (t.isFinal, t.btype, t.phase, t.slot)) (step (sess .blockHeader .gzHeader [1])) =
      some (1, 0, .stored, .storedLen) := by decide

/-- DB-10: the byte 05 is `BLOCK 1, DYNAMIC`. -/
theorem test_block_dynamic :
    see (fun t => (t.isFinal, t.btype, t.phase, t.slot)) (step (sess .blockHeader .gzHeader [5])) =
      some (1, 2, .dynTables, .dynHdr) := by decide

/-- L1-5: the byte 07 is a reserved block. -/
theorem test_block_reserved :
    see (fun t => (t.inPos, t.bitcnt, t.status)) (step (sess .blockHeader .gzHeader [7])) =
      some (1, 5, 0x00012043) := by decide

/-- DB-2: five bits dropped, LEN and NLEN, then "Hello". -/
theorem test_stored :
    see (fun t => (t.inPos, t.bitcnt, (List.range 5).map t.outByte, t.slot))
      (exec .storedLen { withBits 0 5 (sess .storedLen .stored [5, 0, 0xFA, 0xFF, 0x48, 0x65, 0x6C, 0x6C, 0x6F]) with
        isFinal := 1 }) = some (9, 0, [0x48, 0x65, 0x6C, 0x6C, 0x6F], .trailer) := by decide

/-- P4: an output of three bytes: the fourth data byte is read and cannot be emitted. -/
theorem test_stored_full :
    see (fun t => (t.inPos, t.outPos, t.status))
      (exec .storedLen { sess .storedLen .stored [5, 0, 0xFA, 0xFF, 0x48, 0x65, 0x6C, 0x6C, 0x6F] 3 with isFinal := 1 }) =
      some (8, 3, 0x00013153) := by decide

/-! ### The table description (P3's bits) -/

/-- P3: `HDR 4, 3, 14` at bit 3 of 25 C3 29. -/
theorem test_dyn_hdr :
    see (fun t => (t.work.hlit, t.work.hdist, t.work.hclen, t.work.ncodes, t.inPos, t.bitcnt, t.codeLen 18))
      (exec .dynHdr (withBits 0x04 5 (sess .dynHdr .dynTables [0xC3, 0x29]))) = some (4, 3, 14, 265, 2, 7, 0) := by decide

/-- P3: the first field is the length of symbol 16, `001`, so 4. -/
theorem test_cll :
    see (fun t => (t.codeLen 16, t.ci, t.slot)) (exec .cll (withBits 0x14 7 (sess .cll .dynTables []))) =
      some (4, 1, .cll) := by decide

/-- P3: the 18th field is the length of symbol 1; CT then has the codes 2, 17, 18 of two bits, 3 of three, 1, 16 of
four. -/
theorem test_cll_last :
    see (fun t => (t.ct.symbols, t.work.li, t.slot))
      (exec .cll { withLi 7 265 (sess .cll .dynTables [0x04]) with
        ci := 17
        work := { WorkRegs.zero with hclen := 14, li := 7, ncodes := 265 }
        lens := (List.range 19).map fun k => (k, [0, 0, 2, 3, 0, 0, 0, 0, 0, 0, 0, 0, 0, 0, 0, 0, 4, 2, 2].getD k 0) }) =
      some ([2, 17, 18, 3, 1, 16], 0, .clSymbol) := by decide

/-- P3: `CL 3` is lens[65]. -/
theorem test_cl_lit :
    see (fun t => (t.codeLen 65, t.work.li, t.slot)) (exec (.clLit 3) (withLi 65 265 (sess .clSymbol .dynTables []))) =
      some (3, 66, .clSymbol) := by decide

/-- P3: `REP16 3` copies lens[65] to lens[66..68]. -/
theorem test_cl_rep16 :
    see (fun t => ([66, 67, 68].map t.codeLen, t.work.li, t.work.rep))
      (exec .clRep16 { withLi 66 265 (sess .clSymbol .dynTables [0]) with lens := [(65, 3)] }) =
      some ([3, 3, 3], 69, 3) := by decide

/-- DB-11: symbol 16 first; no extra bit is read. -/
theorem test_cl_rep16_first :
    see (fun t => (t.inPos, stopped t)) (exec .clRep16 (withLi 0 258 (sess .clSymbol .dynTables [0]))) =
      some (0, .failed, .fault, 12, 0) := by decide

/-- P3: `ZERO17 3` at 257. -/
theorem test_cl_zero17 :
    see (fun t => ([257, 258, 259].map t.codeLen, t.work.li)) (exec .clZero17 (withLi 257 265 (sess .clSymbol .dynTables [0]))) =
      some ([0, 0, 0], 260) := by decide

/-- P3: `ZERO18 65`, extra bits `0110110`, so 54. -/
theorem test_cl_zero18 :
    see (fun t => (t.lens == (List.range 65).map fun k => (k, 0), t.work.li))
      (exec .clZero18 (withLi 0 265 (sess .clSymbol .dynTables [54]))) = some (true, 65) := by decide +kernel

/-- DB-10: 138 + 138 runs past 258; the extra bits are read and no length is written. -/
theorem test_cl_zero18_overrun :
    see (fun t => (t.bitcnt, t.work.li, t.lens, t.status))
      (exec .clZero18 (withLi 138 258 (sess .clSymbol .dynTables [0x7F]))) =
      some (1, 138, [], 0x000040D7) := by decide

/-! ### The expander -/

/-- L1-1: `01110001` across the bytes 73 04 is 'A'. -/
theorem test_lit :
    see (fun t => (t.outByte 0, t.wcur, t.emitted, t.inPos, t.work.sym)) (step (withBits 0x0E 5 (sess .litLen .huffman [4]))) =
      some (0x41, 1, 1, 1, 65) := by decide

/-- GZ-14: an output of no byte. -/
theorem test_lit_full :
    see (fun t => (t.inPos, t.status)) (step { withBits 0x0E 5 (sess .litLen .huffman [4] 0) with isFinal := 1 }) =
      some (1, 0x00015153) := by decide

/-- L1-1: `0000000` is the end of the block; six bits stay. -/
theorem test_eob :
    see (fun t => (t.inPos, t.bitcnt, t.slot)) (step { withBits 0 5 (sess .litLen .huffman [0]) with isFinal := 1 }) =
      some (1, 6, .trailer) := by decide

/-- LZ-9: symbol 286, `11000110` with its last five bits in 03. -/
theorem test_invalid_len :
    see (fun t => (t.work.sym, stopped t)) (step (withBits 3 5 (sess .litLen .huffman [3]))) =
      some (286, .failed, .fault, 9, 0) := by decide

/-- R176: symbols 30 and 31. -/
theorem test_invalid_dist :
    see stopped (exec (.invalidDist 30) (sess .dist .huffman [])) = some (.failed, .fault, 10, 0) := by decide

/-- R92: with every extra bit 1 each length element gives the last of its row's lengths. -/
theorem test_length_last :
    Claims.lengthRows.map (fun r => see (fun t => t.work.matchLen.toNat) (exec r.1 (withBits 0x1F 7 (sess .litLen .huffman [])))) =
      [3, 4, 5, 6, 7, 8, 9, 10, 12, 14, 16, 18, 22, 26, 30, 34, 42, 50, 58, 66, 82, 98, 114, 130, 162, 194, 226, 258,
        258].map some := by decide

/-- R94: with every extra bit 1 each distance element gives the last of its row's distances. -/
theorem test_distance_last :
    Claims.distanceRows.map (fun r => see (fun t => t.work.matchDist.toNat) (exec r.1 (sess .dist .huffman [0xFF, 0xFF]))) =
      [1, 2, 3, 4, 6, 8, 12, 16, 24, 32, 48, 64, 96, 128, 192, 256, 384, 512, 768, 1024, 1536, 2048, 3072, 4096, 6144,
        8192, 12288, 16384, 24576, 32768].map some := by decide

/-- LZ-4: LEN 284 with extra bits `11111` is 258. -/
theorem test_len_284 :
    see (fun t => (t.work.matchLen, t.bitcnt, t.slot)) (exec .len284 (withBits 0x1F 6 (sess .litLen .huffman []))) =
      some (258, 1, .dist) := by decide

/-- LZ-6: DIST 4 with extra bit 1 is distance 6: "abc" again. -/
theorem test_dist_4 :
    see (fun t => ((List.range 9).map t.outByte, t.work.matchDist, t.slot))
      (exec .dist4 { withOut [0x61, 0x62, 0x63, 0x64, 0x65, 0x66] (withBits 1 1 (sess .dist .huffman [] 9)) with
        work := { WorkRegs.zero with matchLen := 3 } }) =
      some ([0x61, 0x62, 0x63, 0x64, 0x65, 0x66, 0x61, 0x62, 0x63], 6, .litLen) := by decide

/-- R34: `sym` is the last decoded symbol, a distance symbol too: `00100` is 4 (LZ-6), with its extra bit the byte 24. -/
theorem test_dist_sym :
    see (fun t => (t.work.sym, t.work.matchDist))
      (step { withOut [0x61, 0x62, 0x63, 0x64, 0x65, 0x66] (sess .dist .huffman [0x24] 9) with
        work := { WorkRegs.zero with matchLen := 3, sym := 257 } }) = some (4, 6) := by decide

/-- L1-3: distance 1 repeats the last byte; the copy overlaps itself. -/
theorem test_dist_0_overlap :
    see (fun t => (List.range 5).map t.outByte)
      (exec .dist0 { withOut [0x41] (sess .dist .huffman []) with work := { WorkRegs.zero with matchLen := 4 } }) =
      some [0x41, 0x41, 0x41, 0x41, 0x41] := by decide

/-- LZ-7: a match before anything has been emitted. -/
theorem test_dist_0_no_history :
    see (fun t => (t.outPos, stopped t))
      (exec .dist0 { sess .dist .huffman [] with work := { WorkRegs.zero with matchLen := 3 } }) =
      some (0, .failed, .fault, 11, 0) := by decide


/-! ### The host's side and the steps around the elements -/

/-- A core at rest with one host move pending. -/
def idleWith (m : HostMove) : State := { State.reset with host := [m] }

/-- A BUSY core with one host move pending. -/
def busyWith (m : HostMove) : State := { sess .magic .gzHeader [0x1F] with host := [m] }

/-- R40, R50: CTRL = 1 starts a session at MAGIC. -/
theorem test_start :
    see (fun t => (t.state, t.slot, t.inLen)) (step { idleWith (.regWrite 0 4 1) with inLen := 21 }) =
      some (.busy, .magic, 21) := by decide

/-- R47: CTRL = 1 while BUSY is ignored. -/
theorem test_start_busy : step (busyWith (.regWrite 0 4 1)) = .next (sess .magic .gzHeader [0x1F]) := rfl

/-- R44: OUT_POS at offset 1C. -/
theorem test_read_out_pos :
    see (fun t => t.busData) (step { idleWith (.regRead 0x1C 4) with state := .done, outPos := 10 }) = some 10 := by decide

/-- R38, R45: CRC_FIELD reads the register while BUSY too, 0 before the trailer. -/
theorem test_read_crc_busy :
    see (fun t => t.busData) (step { busyWith (.regRead 0x20 4) with busData := 5 }) = some 0 := by decide

/-- R270, R275: power-on reset stops a session. -/
theorem test_power_on_busy :
    see (fun t => (t.state, t.phase, t.inLen, t.host)) (step (busyWith .powerOn)) = some (.idle, .idle, 0, []) := by decide

/-- R72: the host reads back a byte of its memory that is visible. -/
theorem test_read_memory :
    see (fun t => t.busData) (step { idleWith (.memRead 0x1000) with mem := [(0x1000, 0x41)] }) = some 0x41 := by decide

/-- L1-1: its words in the opcode table run first after reset. -/
theorem test_fetch_word :
    see (fun t => t.slot) (step (State.reset.withFetchWord 16 0x8B1F)) = some .method ∧
      see (fun t => t.outByte 0) (step { State.reset.withFetchWord 16 65 with outCap := 1 }) = some 65 := by decide

/-! ### Witnesses: for each statement with hypotheses, states and operands that meet them -/

/-- DecodeOfEncodeIsTheInstruction: the ends of each operand's range. -/
theorem test_witness_well_formed :
    (Instr.lit 0).WellFormed ∧ (Instr.lit 255).WellFormed ∧ (Instr.clLit 15).WellFormed ∧
      (Instr.invalidLen 286).WellFormed ∧ (Instr.invalidLen 287).WellFormed ∧ (Instr.invalidDist 30).WellFormed ∧
      (Instr.invalidDist 31).WellFormed ∧ (Instr.blockReserved 1).WellFormed := by decide

/-- SymbolsDecodeToTheirOwnElement: the last value of each alphabet. -/
theorem test_witness_symbols :
    decode .blockHeader 7 = .ok (.blockReserved 1) ∧ decode .clSymbol 18 = .ok .clZero18 ∧
      decode .litLen 287 = .ok (.invalidLen 287) ∧ decode .dist 31 = .ok (.invalidDist 31) ∧
      Slot.dist ∈ [Slot.blockHeader, .clSymbol, .litLen, .dist] := by decide

/-- FixedLiteralLengthCodesDecode: at the ends of the four ranges, with the code in the input bytes. -/
theorem test_witness_fixed_literal_codes :
    ∀ y ∈ [0, 143, 144, 255, 256, 279, 280, 287], y ≤ 287 ∧
      (sess .litLen .huffman (packBytes 2 (fixedLitCode y))).startsWith (fixedLitCode y) ∧
      (fixedLitCode y).length ≤ (sess .litLen .huffman (packBytes 2 (fixedLitCode y))).bitsLeft := by
  unfold State.startsWith; decide

/-- FixedDistanceCodesDecode: symbols 0, 29, 30 and 31, with 16 bits of input. -/
theorem test_witness_fixed_distance_codes :
    ∀ y ∈ [0, 29, 30, 31], (sess .dist .huffman (packBytes 2 (msbFirst 5 y))).startsWith (msbFirst 5 y) ∧
      15 ≤ (sess .dist .huffman (packBytes 2 (msbFirst 5 y))).bitsLeft := by
  unfold State.startsWith; decide

/-- CanonicalCodesDecodeToTheirSymbols: L1-7, symbol 7, whose code is `1111`. The Kraft sum is exactly 1. -/
theorem test_witness_canonical :
    lens8.length ≤ 288 ∧ Kraft lens8 ∧ 7 < lens8.length ∧ lens8.getD 7 0 ≠ 0 ∧
      (sess .litLen .huffman [0x0F]).startsWith (msbFirst (lens8.getD 7 0).toNat (canonicalCode lens8 7)) ∧
      (lens8.getD 7 0).toNat ≤ (sess .litLen .huffman [0x0F]).bitsLeft := by
  unfold State.startsWith Kraft; decide

/-- PlacedTableWordIsFetchedAndRun: at reset, and at the last in_pos it speaks of. -/
theorem test_witness_placed :
    decodeTableWord 8 8 = some .method ∧ State.reset.inPos.toNat + placedLength < 2 ^ 32 ∧
      State.inPos { State.reset with inPos := 0xFFFFFFEF } = 0xFFFFFFEF ∧ 0xFFFFFFEF + placedLength < 2 ^ 32 := by decide

/-- ReadByteReadsTheByteAtInPos: the last byte, and none. -/
theorem test_witness_read_byte :
    (sess .magic .gzHeader [1]).inPos < (sess .magic .gzHeader [1]).inLen ∧
      ¬ (sess .magic .gzHeader []).inPos < (sess .magic .gzHeader []).inLen := by decide

/-- BitReadsConsumeByTheLaw: with bitcnt 7. -/
theorem test_witness_bit_reads :
    (withBits 5 7 (sess .litLen .huffman [0])).bitcnt.toNat ≤ 7 ∧
      (okOf (fun _ => ()) (readBits 15 (withBits 5 7 (sess .litLen .huffman [0])))).isSome = true ∧
      (okOf (fun _ => ()) (decodeSymbol Table.fixedLit (withBits 5 7 (sess .litLen .huffman [0])))).isSome = true ∧
      lens8.length ≤ 288 ∧ okOf (fun _ => ()) (decodeSymbol (build lens8) (sess .litLen .huffman [0x0F])) = some (7, ()) := by
  decide

/-- BuildSortsTheUsedSymbols: the longest list, and the ends of the lengths. -/
theorem test_witness_build : fixedLitLens.length ≤ 288 ∧ 1 ≤ 15 ∧ (build [15, 1]).count 15 = 1 := by decide

/-- DecodeStaysInsideTheTable: the fixed tables. -/
theorem test_witness_table_ok : Table.fixedLit.Ok 288 ∧ Table.fixedDist.Ok 32 :=
  ⟨⟨by decide, by decide, fun y hy => of_decide_eq_true
      (List.all_eq_true.1 (by decide : (Table.fixedLit.symbols.all fun y => decide (y.toNat < 288)) = true) y hy)⟩,
    ⟨by decide, by decide, fun y hy => of_decide_eq_true
      (List.all_eq_true.1 (by decide : (Table.fixedDist.symbols.all fun y => decide (y.toNat < 32)) = true) y hy)⟩⟩

/-- EmitWritesRingAndOutput: room for one byte, and none. -/
theorem test_witness_emit :
    (sess .litLen .huffman [] 1).outPos < (sess .litLen .huffman [] 1).outCap ∧
      ¬ (sess .litLen .huffman [] 0).outPos < (sess .litLen .huffman [] 0).outCap := by decide

/-- StepRunsTheFetchedElement: an element, a stop of the fetch, an idle move, a core at rest. -/
theorem test_witness_step :
    (fetch (sess .magic .gzHeader [0x1F]) = .ok (.ok .magic) (sess .magic .gzHeader [0x1F])) ∧
      (stopOf (fun _ => ()) (fetch (sess .litLen .huffman []))).isSome = true ∧ (sess .magic .gzHeader []).host = [] ∧
      (idleWith .idle).host = [.idle] ∧ State.reset.state ≠ .busy :=
  ⟨rfl, by decide, by decide, by decide, by decide⟩

/-- FetchDecodesTheElementAtTheSlot: a symbol by each kind of table, and a DECODE that raises at each slot. -/
theorem test_witness_fetch :
    (okOf (fun _ => ()) (decodeSymbol (build [1, 1]) { sess .clSymbol .dynTables [1] with ct := build [1, 1] })).isSome ∧
      (okOf (fun _ => ()) (decodeSymbol (sess .litLen .huffman [0]).litTable (sess .litLen .huffman [0]))).isSome ∧
      (okOf (fun _ => ()) (decodeSymbol (sess .dist .huffman [0]).distTable (sess .dist .huffman [0]))).isSome ∧
      (sess .trailer .huffman []).slot ∈ [Slot.magic, .trailer] ∧
      stopOf (fun _ => ()) (decodeSymbol (sess .clSymbol .dynTables [0, 0]).ct (sess .clSymbol .dynTables [0, 0])) =
        some (.huffmanNoSymbol, ()) ∧
      stopOf (fun _ => ()) (decodeSymbol (sess .litLen .huffman []).litTable (sess .litLen .huffman [])) =
        some (.truncatedIn, ()) ∧
      stopOf (fun _ => ()) (decodeSymbol (sess .dist .huffman [0x0F, 0]).distTable (sess .dist .huffman [0x0F, 0])) =
        some (.huffmanNoSymbol, ()) ∧
      (sess .dist .huffman []).state = .busy ∧ (sess .dist .huffman []).host = [] := by decide

/-- BlockHeaderFetchWritesFinalAndType: 3 bits left, 2, 1 and none. -/
theorem test_witness_block_header :
    (withBits 5 3 (sess .blockHeader .gzHeader [])).slot = .blockHeader ∧
      3 ≤ (withBits 5 3 (sess .blockHeader .gzHeader [])).bitsLeft ∧
      (withBits 1 2 (sess .blockHeader .gzHeader [])).bitsLeft = 2 ∧
      (withBits 1 1 (sess .blockHeader .gzHeader [])).bitsLeft = 1 ∧ (sess .blockHeader .gzHeader []).bitsLeft = 0 := by
  decide

/-- MagicChecksEachByteAsRead: its five cases. -/
theorem test_witness_magic :
    (sess .magic .gzHeader []).bytesLeft = 0 ∧ (sess .magic .gzHeader [0x1E]).bytesLeft = 1 ∧
      (sess .magic .gzHeader [0x1E]).byteAt 0 ≠ 0x1F ∧ (sess .magic .gzHeader [0x1F]).byteAt 0 = 0x1F ∧
      (sess .magic .gzHeader [0x1F]).bytesLeft = 1 ∧ (sess .magic .gzHeader [0x1F, 0x8C]).bytesLeft = 2 ∧
      (sess .magic .gzHeader [0x1F, 0x8C]).byteAt 1 ≠ 0x8B ∧ (sess .magic .gzHeader [0x1F, 0x8B]).byteAt 1 = 0x8B := by
  decide

/-- MethodAndFlagsReadOneByte: no byte, 7, 9 and 8. -/
theorem test_witness_method :
    (sess .method .gzHeader []).bytesLeft = 0 ∧ (sess .method .gzHeader [7]).byteAt 0 ≠ 8 ∧
      (sess .method .gzHeader [9]).byteAt 0 ≠ 8 ∧ (sess .method .gzHeader [8]).byteAt 0 = 8 ∧
      1 ≤ (sess .method .gzHeader [8]).bytesLeft := by decide

/-- SkipFixedReadsSixBytes: six bytes and five. -/
theorem test_witness_skip_fixed :
    6 ≤ (sess .skipFixed .gzHeader [0, 0, 0, 0, 0, 3]).bytesLeft ∧ (sess .skipFixed .gzHeader [0, 0, 0, 0, 0]).bytesLeft < 6 := by
  decide

/-- ExtraSkipsItsLength: XLEN 1 with its byte, XLEN 1 without it, one byte. -/
theorem test_witness_extra :
    2 + ((sess .extra .gzHeader [1, 0, 7]).word16At 0).toNat ≤ (sess .extra .gzHeader [1, 0, 7]).bytesLeft ∧
      2 ≤ (sess .extra .gzHeader [1, 0]).bytesLeft ∧
      (sess .extra .gzHeader [1, 0]).bytesLeft < 2 + ((sess .extra .gzHeader [1, 0]).word16At 0).toNat ∧
      (sess .extra .gzHeader [1]).bytesLeft < 2 := by decide

/-- NameAndCommentEndAtTheZeroByte: a zero in the last byte, and no zero. -/
theorem test_witness_name :
    1 < (sess .name .gzHeader [9, 0]).bytesLeft ∧ (sess .name .gzHeader [9, 0]).byteAt 1 = 0 ∧
      (∀ k, k < 1 → (sess .name .gzHeader [9, 0]).byteAt k ≠ 0) ∧
      ∀ k, k < (sess .name .gzHeader [9, 8]).bytesLeft → (sess .name .gzHeader [9, 8]).byteAt k ≠ 0 := by decide

/-- HeaderChecksumIsDiscarded: two bytes and one. -/
theorem test_witness_hcrc :
    2 ≤ (sess .hcrc .gzHeader [1, 2]).bytesLeft ∧ (sess .hcrc .gzHeader [1]).bytesLeft < 2 := by decide

/-- TrailerIsLatchedAndEndsTheSession: eight bytes, seven, four and three. -/
theorem test_witness_trailer :
    8 ≤ (sess .trailer .huffman [1, 2, 3, 4, 5, 6, 7, 8]).bytesLeft ∧
      (sess .trailer .huffman [1, 2, 3, 4, 5, 6, 7]).bytesLeft < 8 ∧ 4 ≤ (sess .trailer .huffman [1, 2, 3, 4]).bytesLeft ∧
      (sess .trailer .huffman [1, 2, 3]).bytesLeft < 4 := by decide

/-- A stored body of one byte: LEN 1, NLEN FFFE. -/
def stored1 (data : List Byte) (cap : Nat) : State := sess .storedLen .stored ([1, 0, 0xFE, 0xFF] ++ data) cap

/-- StoredBodyIsCopied: the byte is there and fits exactly. -/
theorem test_witness_stored :
    (stored1 [9] 1).regionsOverlap = false ∧ 4 ≤ (stored1 [9] 1).bytesLeft ∧
      (stored1 [9] 1).word16At 2 = ~~~ (stored1 [9] 1).word16At 0 ∧
      4 + ((stored1 [9] 1).word16At 0).toNat ≤ (stored1 [9] 1).bytesLeft ∧
      ((stored1 [9] 1).word16At 0).toNat ≤ (stored1 [9] 1).room := by decide

/-- StoredBodyStops: three bytes, a wrong NLEN, the data byte missing, no room for it. -/
theorem test_witness_stored_stops :
    (sess .storedLen .stored [1, 0, 0xFE]).bytesLeft < 4 ∧
      (sess .storedLen .stored [1, 0, 0xFE, 0xFE]).word16At 2 ≠ ~~~ (sess .storedLen .stored [1, 0, 0xFE, 0xFE]).word16At 0 ∧
      (stored1 [] 0).bytesLeft < 4 + ((stored1 [] 0).word16At 0).toNat ∧ (stored1 [] 0).bytesLeft - 4 ≤ (stored1 [] 0).room ∧
      (stored1 [9] 0).room < ((stored1 [9] 0).word16At 0).toNat ∧ (stored1 [9] 0).room < (stored1 [9] 0).bytesLeft - 4 ∧
      (stored1 [] 0).regionsOverlap = false ∧ (stored1 [9] 0).regionsOverlap = false := by decide

/-- DynamicHeaderReadsThreeCounts: 14 bits and 13. -/
theorem test_witness_dyn_hdr :
    14 ≤ (withBits 0 6 (sess .dynHdr .dynTables [0])).bitsLeft ∧ (withBits 0 5 (sess .dynHdr .dynTables [0])).bitsLeft < 14 := by
  decide

/-- A CLL element as field `c` of `n + 4`, with `b` bits of input. -/
def cllAt (c : Fin 19) (n b : Nat) : State :=
  { withBits 1 b (sess .cll .dynTables []) with
    ci := c, work := { WorkRegs.zero with hclen := BitVec.ofNat 4 n, ncodes := 258 } }

/-- CodeLengthFieldsFollowThePermutation: the field before the last, the last one, and two bits. -/
theorem test_witness_cll :
    3 ≤ (cllAt 17 15 3).bitsLeft ∧ (cllAt 17 15 3).ci.val + 1 < (cllAt 17 15 3).work.hclen.toNat + 4 ∧
      (cllAt 18 15 3).work.hclen.toNat + 4 ≤ (cllAt 18 15 3).ci.val + 1 ∧ (cllAt 18 15 3).work.ncodes ≠ 0 ∧
      (cllAt 3 0 3).work.hclen.toNat + 4 ≤ (cllAt 3 0 3).ci.val + 1 ∧ (cllAt 0 0 2).bitsLeft < 3 := by decide

/-- CodeLengthSymbolIsOneLength: the length that completes the sequence, of the largest value. -/
theorem test_witness_cl_lit :
    (15 : Sym) ≤ 15 ∧ (withLi 257 258 (sess .clSymbol .dynTables [])).work.li <
      (withLi 257 258 (sess .clSymbol .dynTables [])).work.ncodes := by decide

/-- RepeatsAppendTheirCount: the shortest repeats, each ending exactly at ncodes. -/
theorem test_witness_repeats :
    (withLi 255 258 (withBits 0 2 (sess .clSymbol .dynTables []))).bitsLeft = 2 ∧
      (withLi 255 258 (sess .clSymbol .dynTables [])).work.li ≠ 0 ∧
      255 + (3 + (withBits 0 2 (sess .clSymbol .dynTables [])).field 0 2) ≤ 258 ∧
      255 + (3 + (withBits 0 3 (sess .clSymbol .dynTables [])).field 0 3) ≤ 258 ∧
      247 + (11 + (withBits 0 7 (sess .clSymbol .dynTables [])).field 0 7) ≤ 258 ∧
      (withLi 255 258 (withBits 0 3 (sess .clSymbol .dynTables []))).work.li.toNat = 255 ∧
      (withLi 247 258 (withBits 0 7 (sess .clSymbol .dynTables []))).work.ncodes.toNat = 258 := by decide

/-- RepeatsStop: no previous length, missing bits, and each repeat one past ncodes. -/
theorem test_witness_repeats_stop :
    (withLi 0 258 (sess .clSymbol .dynTables [])).work.li = 0 ∧
      (withLi 1 258 (withBits 0 1 (sess .clSymbol .dynTables []))).work.li ≠ 0 ∧
      (withLi 1 258 (withBits 0 1 (sess .clSymbol .dynTables []))).bitsLeft < 2 ∧
      (withBits 0 2 (sess .clSymbol .dynTables [])).bitsLeft < 3 ∧ (withBits 0 6 (sess .clSymbol .dynTables [])).bitsLeft < 7 ∧
      258 < 256 + (3 + (withBits 0 2 (sess .clSymbol .dynTables [])).field 0 2) ∧
      258 < 256 + (3 + (withBits 0 3 (sess .clSymbol .dynTables [])).field 0 3) ∧
      258 < 248 + (11 + (withBits 0 7 (sess .clSymbol .dynTables [])).field 0 7) := by decide

/-- LiteralIsEmitted: the last literal, room for one byte, and none. -/
theorem test_witness_lit :
    (255 : Sym) ≤ 255 ∧ 1 ≤ (sess .litLen .huffman [] 1).room ∧ (sess .litLen .huffman [] 0).room = 0 := by decide

/-- LengthElementsSetMatchLen: the first and the last row, and one with its extra bits exactly there or one short. -/
theorem test_witness_length :
    (Instr.len257, 3, 0) ∈ Claims.lengthRows ∧ (Instr.len285, 258, 0) ∈ Claims.lengthRows ∧
      (Instr.len284, 227, 5) ∈ Claims.lengthRows ∧ 5 ≤ (withBits 31 5 (sess .litLen .huffman [])).bitsLeft ∧
      (withBits 15 4 (sess .litLen .huffman [])).bitsLeft < 5 := by decide

/-- A match of one byte after "A", with `cap` bytes of output. -/
def match1 (cap : Nat) : State :=
  { withOut [0x41] (sess .dist .huffman [] cap) with work := { WorkRegs.zero with matchLen := 1 } }

/-- DistanceElementsRunTheMatch and DistanceElementsStop: distance 1 after one byte with room for exactly one more, and
with none; distance 2 there; DIST_29 with all its 13 extra bits and with 12. -/
theorem test_witness_distance :
    (Instr.dist0, 1, 0) ∈ Claims.distanceRows ∧ (Instr.dist29, 24577, 13) ∈ Claims.distanceRows ∧
      1 + (match1 2).field 0 0 ≤ (match1 2).emitted.toNat ∧ (match1 2).work.matchLen.toNat ≤ (match1 2).room ∧
      (match1 1).room < (match1 1).work.matchLen.toNat ∧ (match1 2).emitted.toNat < 2 + (match1 2).field 0 0 ∧
      13 ≤ (withBits 0 5 (sess .dist .huffman [0])).bitsLeft ∧ (withBits 0 4 (sess .dist .huffman [0])).bitsLeft < 13 := by
  decide

/-- InvalidSymbolsFaultBeforeExtraBits: the four symbols. -/
theorem test_witness_invalid :
    ((286 : Sym) = 286 ∨ (286 : Sym) = 287) ∧ ((287 : Sym) = 286 ∨ (287 : Sym) = 287) ∧
      ((30 : Sym) = 30 ∨ (30 : Sym) = 31) ∧ ((31 : Sym) = 30 ∨ (31 : Sym) = 31) := by decide

/-- ContainerFrame, TableDescriptionFrame, LengthElementFrame, EmittingElementFrame: elements with a next state, each
without a stop. -/
theorem test_witness_frames :
    see (·.state) (exec .magic (sess .magic .gzHeader [0x1F, 0x8B])) = some .busy ∧
      see (·.state) (exec .trailer (sess .trailer .huffman [1, 2, 3, 4, 5, 6, 7, 8])) = some .done ∧
      see (·.state) (exec .dynHdr (sess .dynHdr .dynTables [0, 0])) = some .busy ∧
      see (·.state) (exec .cll (cllAt 17 15 3)) = some .busy ∧
      see (·.state) (exec .clZero17 (withLi 255 265 (sess .clSymbol .dynTables [0]))) = some .busy ∧
      see (·.state) (exec .len284 (withBits 31 5 (sess .litLen .huffman []))) = some .busy ∧
      see (·.state) (exec (.lit 65) (sess .litLen .huffman [] 1)) = some .busy ∧
      see (·.state) (exec .dist0 (match1 2)) = some .busy ∧ see (·.state) (exec .storedLen (stored1 [9] 1)) = some .busy := by
  decide

/-- ResetValues: power-on reset of a BUSY core. -/
theorem test_witness_power_on : (busyWith .powerOn).host = [.powerOn] ∧ (busyWith .powerOn).state = .busy := by decide

/-- StartBeginsASession: from reset, with bits 31:1 set. -/
theorem test_witness_start :
    (idleWith (.regWrite 0 4 0xFFFFFFFF)).state ≠ .busy ∧ (idleWith (.regWrite 0 4 0xFFFFFFFF)).regionWraps = false ∧
      (idleWith (.regWrite 0 4 0xFFFFFFFF)).regionsOverlap = false ∧ (0xFFFFFFFF : Word).getLsbD 0 = true ∧
      (idleWith (.regWrite 0 4 0xFFFFFFFF)).host = [.regWrite State.reset.coreBase 4 0xFFFFFFFF] := by decide

/-- A core at rest with CTRL = 1 pending and the regions IN_BASE `i`, IN_LEN `n`, OUT_BASE `o`, OUT_CAP 1. -/
def startWith (i n o : Word) : State :=
  { idleWith (.regWrite 0 4 1) with inBase := i, inLen := n, outBase := o, outCap := 1 }

/-- R72, R41: START makes the one output byte not yet visible, and GZ_HEADER is the one phase held. -/
theorem test_start_records :
    see (fun t => (t.unseen, t.phasesHeld)) (step (startWith 7 2 9)) = some ([(9, 10)], [.gzHeader]) := by decide

/-- RegisterWritesTakeEffectOnlyWhenNotBusy, RegisterReadsReturnTheRegisters: the ends of the block and each register, by
a core at rest and a BUSY one. -/
theorem test_witness_registers :
    ([0, 4, 8, 0xC, 0x10, 0x14, 0x18, 0x24, 0x28, 0xFFC] : List Word).all
      (fun off => off.toNat < 0x1000 ∧ off.toNat % 4 = 0) = true ∧
      (∀ off, (idleWith (.regRead (State.reset.coreBase + off) 4)).host = [.regRead (State.reset.coreBase + off) 4]) ∧
      (∀ off, (busyWith (.regRead (State.reset.coreBase + off) 4)).host = [.regRead (State.reset.coreBase + off) 4]) ∧
      (∀ off, (busyWith (.regWrite (State.reset.coreBase + off) 4 1)).host =
        [.regWrite (State.reset.coreBase + off) 4 1]) ∧
      State.reset.state ≠ .busy ∧ (busyWith .idle).state = .busy ∧ (2 : Word).getLsbD 0 = false :=
  ⟨by decide, fun _ => rfl, fun _ => rfl, fun _ => rfl, by decide, by decide, by decide⟩

/-- StatusFieldsAreWhereTheRegisterSays, PositionReadsWhileBusyAreEarlierValues: the reads and a write, BUSY and not. -/
theorem test_witness_status_and_positions :
    (busyWith (.regRead 4 4)).phasesHeld ≠ [] ∧ (busyWith (.regRead 4 4)).host = [.regRead (State.reset.coreBase + 4) 4] ∧
      (busyWith (.regRead 4 4)).state = .busy ∧
      (idleWith (.regWrite 4 4 1)).host = [.regWrite (State.reset.coreBase + 4) 4 1] ∧
      (idleWith (.regRead 0x18 4)).host = [.regRead (State.reset.coreBase + 0x18) 4] ∧
      (busyWith (.regRead 0x1C 4)).host = [.regRead (State.reset.coreBase + 0x1C) 4] ∧
      (idleWith (.regWrite 0x1C 4 1)).host = [.regWrite (State.reset.coreBase + 0x1C) 4 1] := by decide

/-- RefusedHostMoves: one state for each clause (the register block of a reset core is addresses 0 to FFF). -/
theorem test_witness_refused :
    State.reset.inBlock 0xFFF = true ∧ aligned32 (State.reset.regOffset 4) 2 = false ∧
      aligned32 (State.reset.regOffset 2) 4 = false ∧ State.reset.inBlock 0x1000 = false ∧
      ({ sess .magic .gzHeader [1] with coreBase := 0x8000 } : State).inBlock 0x100 = false ∧
      (sess .magic .gzHeader [1]).inInput 0x100 = true ∧ (sess .magic .gzHeader [1]).inInput 0x101 = false ∧
      (sess .magic .gzHeader [1]).inOutput 0x200 = true ∧ (sess .magic .gzHeader [1]).inOutput 0x208 = false ∧
      (sess .magic .gzHeader [1]).inInput 0x200 = false ∧ (startWith 0xFFFFFFFF 2 0).regionWraps = true ∧
      (startWith 0xFFFFFFFE 2 0).regionWraps = false ∧ (startWith 7 2 8).regionsOverlap = true ∧
      (startWith 7 2 9).regionsOverlap = false := by decide

/-- RefusedHostMoves: an address in an output range not yet visible, its first and last, and the ones beside it. -/
theorem test_witness_unseen :
    State.Unseen { State.reset with unseen := [(0x2000, 0x2002)] } 0x2000 ∧
      State.Unseen { State.reset with unseen := [(0x2000, 0x2002)] } 0x2001 ∧
      ¬ State.Unseen { State.reset with unseen := [(0x2000, 0x2002)] } 0x1FFF ∧
      ¬ State.Unseen { State.reset with unseen := [(0x2000, 0x2002)] } 0x2002 ∧ State.reset.inBlock 0x2000 = false := by
  simp [State.Unseen, State.reset, State.inBlock, State.regOffset]

/-! ### Witnesses of the invariants -/

/-- A session about to copy, after "A" has been emitted: BUSY, with a window of one byte. -/
def midMatch : State := { match1 2 with work := { WorkRegs.zero with matchLen := 3 } }

/-- ResetSatisfiesTheInvariants has no hypothesis; here BUSY states that satisfy them and step. -/
theorem test_witness_canonical_memories : midMatch.Canonical := ⟨by decide, by decide, by decide⟩

/-- CursorsStayInBounds. -/
theorem test_witness_cursors : midMatch.CursorsOk := ⟨by decide, by decide, by decide, by decide, by decide⟩

/-- OutcomeRegistersStayArchitected: BUSY, and FAILED. -/
theorem test_witness_outcome : midMatch.OutcomeOk ∧ (midMatch.enterStop .truncatedOut).OutcomeOk :=
  ⟨⟨by decide, fun h => absurd h (by decide)⟩, ⟨by decide, fun _ => ⟨.truncatedOut, by decide⟩⟩⟩

/-- SessionRegionsStayApart. -/
theorem test_witness_regions : midMatch.RegionsOk := ⟨by decide, by decide⟩

/-- RingHoldsTheLastOutputBytes: the window is one byte, "A". -/
theorem test_witness_window : midMatch.WindowOk := by
  intro _ d h1 h2
  have h : d = 1 := Nat.le_antisymm h2 h1
  subst h
  decide

/-- SessionsFollowTheStateMachine, NoRunReachesAModelFault: the first element, a distance element with the shortest match,
and the last CLL field. -/
theorem test_witness_control :
    (sess .magic .gzHeader [0x1F]).ControlOk ∧ midMatch.ControlOk ∧ (cllAt 18 15 3).ControlOk := by
  refine ⟨⟨by decide, by decide, ?_, ?_, ?_, by decide, by decide, by decide, by decide⟩,
    ⟨by decide, by decide, ?_, fun _ _ => test_witness_table_ok.1, fun _ _ => test_witness_table_ok.2, by decide,
      by decide, by decide, by decide⟩,
    ⟨by decide, by decide, ?_, ?_, ?_, by decide, by decide, by decide, by decide⟩⟩ <;>
  · exact fun _ h => absurd h (by decide)

/-- Each of these states has a next state. -/
theorem test_witness_next :
    see (·.state) (step midMatch) = some .failed ∧ see (·.slot) (step (sess .magic .gzHeader [0x1F, 0x8B])) = some .method ∧
      see (·.slot) (step (cllAt 18 15 3)) = some .clSymbol := by decide

/-- EverySessionEnds: a BUSY core with no host move pending. -/
theorem test_witness_ends : midMatch.state = .busy ∧ midMatch.host = [] := by decide

/-- InputAndEmittedBytesStayInASession: the last input byte and the byte emitted. -/
theorem test_witness_bytes_stay :
    (sess .magic .gzHeader [0x1F]).inInput 0x100 = true ∧ midMatch.outBase.toNat ≤ 0x200 ∧
      0x200 < midMatch.outBase.toNat + midMatch.outPos.toNat := by decide

/-- RingOutsideTheWindowIsNeverRead: another byte in slot 5. -/
theorem test_witness_ring :
    ∀ d, 1 ≤ d → d ≤ midMatch.emitted.toNat →
      State.ringByte { midMatch with ring := [(0, 0x41), (5, 9)] } ((midMatch.wcur.toNat + 32768 - d) % 32768) =
        midMatch.ringByte ((midMatch.wcur.toNat + 32768 - d) % 32768) := by
  intro d h1 h2
  have h : d = 1 := Nat.le_antisymm h2 h1
  subst h
  decide

end Sys2Proof.Tests
end

section
/-! PROOFS. The statements of 00_scope.md: one step is the element fetched, and a word of the opcode table placed at the
bit cursor is the element fetched. The second needs the bits a placed state has at its cursor, DECODE of a code that
stands there, and the block header read from three bits. -/
namespace Sys2Proof.Machine

/-! ### One step of a BUSY core (R5, R22, R279) -/

theorem step_of_no_host {s : State} (h : s.host = []) : step s = coreStep s := by
  simp [step, h]

theorem step_of_idle {s : State} {rest : List HostMove} (h : s.host = .idle :: rest) :
    step s = coreStep { s with host := rest } := by
  simp [step, h]

theorem coreStep_of_fetch_ok {s t : State} {i : Instr} (hb : s.state = .busy) (hf : fetch s = .ok (.ok i) t) :
    coreStep s = exec i t := by
  simp [coreStep, hb, hf]

theorem coreStep_of_fetch_stop {s t : State} {r : Stop} (hb : s.state = .busy) (hf : fetch s = .stop r t) :
    coreStep s = .next (t.enterStop r) := by
  simp [coreStep, hb, hf]

theorem coreStep_of_not_busy {s : State} (hb : s.state ≠ .busy) : coreStep s = .next s := by
  simp [coreStep, hb]

/-- Settles O14: `step` is `coreStep` where the host makes no move, and `coreStep` runs what the fetch answers. -/
theorem stepRunsTheFetchedElement : Obligations.StepRunsTheFetchedElement := by
  intro s
  refine ⟨fun hh hb => ⟨fun i t hf => ?_, fun r t hf => ?_⟩, fun rest hh => step_of_idle hh, step_of_no_host,
    fun hh hb => ?_⟩
  · rw [step_of_no_host hh, coreStep_of_fetch_ok hb hf]
  · rw [step_of_no_host hh, coreStep_of_fetch_stop hb hf]
  · rw [step_of_no_host hh, coreStep_of_not_busy hb]

/-! ### Bits packed into bytes and bytes placed in memory (R64, R65) -/

theorem testBit_packByte (bits : List Bool) (k : Nat) : (packByte bits).testBit k = bits.getD k false := by
  induction bits generalizing k with
  | nil => simp [packByte]
  | cons b bits ih =>
    cases k with
    | zero => cases b <;> simp [packByte, Nat.testBit_zero]
    | succ k =>
      have half : packByte (b :: bits) / 2 = packByte bits := by cases b <;> simp [packByte]; omega
      rw [Nat.testBit_succ, half, ih, List.getD_cons_succ]

theorem getElem?_packBytes {n k : Nat} (bits : List Bool) (h : k < n) :
    (packBytes n bits)[k]? = some (BitVec.ofNat 8 (packByte ((bits.drop (8 * k)).take 8))) := by
  induction n generalizing k bits with
  | zero => omega
  | succ n ih =>
    cases k with
    | zero => simp [packBytes]
    | succ k =>
      rw [packBytes, List.getElem?_cons_succ, ih _ (by omega), List.drop_drop, Nat.mul_succ, Nat.add_comm 8]

theorem get?_placeBytes (bs : List Byte) (a : Nat) (m : Store Byte) (b : Nat) :
    Memory.get? (placeBytes bs a m) b = if a ≤ b ∧ b < a + bs.length then bs[b - a]? else Memory.get? m b := by
  induction bs generalizing a m with
  | nil => rw [placeBytes, if_neg (by simp)]
  | cons c bs ih =>
    rw [placeBytes, ih, Memory.get?_set, List.length_cons]
    by_cases hb : b = a
    · rw [if_neg (by omega), if_pos hb, if_pos (by omega), hb, Nat.sub_self, List.getElem?_cons_zero]
    · by_cases hr : a + 1 ≤ b ∧ b < a + 1 + bs.length
      · rw [if_pos hr, if_pos (by omega), show b - a = b - (a + 1) + 1 by omega, List.getElem?_cons_succ]
      · rw [if_neg hr, if_neg hb, if_neg (by omega)]

@[simp] theorem length_packBytes (n : Nat) (bits : List Bool) : (packBytes n bits).length = n := by
  induction n generalizing bits with
  | zero => rfl
  | succ n ih => simp [packBytes, ih]

/-! ### The bits at the cursor of a placed state (log 17) -/

theorem State.bitsLeft_placeAt {s : State} (slot : Slot) (nbits w : Nat)
    (h : s.inPos.toNat + placedLength < 2 ^ 32) : (s.placeAt slot nbits w).bitsLeft = 128 := by
  simp only [placedLength] at h
  simp only [State.bitsLeft, State.bytesLeft, State.placeAt, State.setPhase_inPos, BitVec.toNat_add,
    BitVec.toNat_ofNat, placedLength]
  rw [show (0 : BitVec 4).toNat = 0 from rfl]
  omega

theorem State.byteAt_placeAt (s : State) (slot : Slot) (nbits w : Nat) {k : Nat} (h : k < placedLength) :
    (s.placeAt slot nbits w).byteAt k =
      BitVec.ofNat 8 (packByte (((slotBits slot nbits w).drop (8 * k)).take 8)) := by
  simp only [State.byteAt, State.inByte, State.hostByte, State.placeAt, State.setPhase_inPos, State.setPhase_inBase,
    get?_placeBytes, length_packBytes]
  rw [if_pos (by omega), show s.inBase.toNat + (s.inPos.toNat + k) - (s.inBase.toNat + s.inPos.toNat) = k by omega,
    getElem?_packBytes _ h, Option.getD_some]

/-- The bits to come are the element's, then zeros. -/
theorem State.bitAt_placeAt (s : State) (slot : Slot) (nbits w : Nat) {k : Nat} (h : k < 128) :
    (s.placeAt slot nbits w).bitAt k = (slotBits slot nbits w).getD k false := by
  have hk : k / 8 < placedLength := by simp only [placedLength]; omega
  have hm : k % 8 < 8 := Nat.mod_lt _ (by decide)
  have bitcnt_zero : (s.placeAt slot nbits w).bitcnt.toNat = 0 := rfl
  rw [State.bitAt, bitcnt_zero, if_neg (Nat.not_lt_zero k), Nat.sub_zero, State.byteAt_placeAt _ _ _ _ hk,
    BitVec.getLsbD_ofNat, testBit_packByte, decide_eq_true hm, Bool.true_and]
  simp only [List.getD_eq_getElem?_getD, List.getElem?_take_of_lt hm, List.getElem?_drop, Nat.div_add_mod]

theorem State.startsWith_placeAt (s : State) {slot : Slot} {nbits w : Nat}
    (h : (slotBits slot nbits w).length ≤ 128) :
    (s.placeAt slot nbits w).startsWith (slotBits slot nbits w) :=
  fun _ hk => s.bitAt_placeAt slot nbits w (hk.trans_le h)

/-! ### DECODE of a code that stands at the bit cursor (R67, R141) -/

/-- The symbol the loop of DECODE resolves `code` to, from code length `L` on, if it does so at the code's last bit:
`decodeFrom` on a list of bits instead of the input. -/
def Table.lookup (T : Table) : (code : List Bool) → (L : Nat) → (cur : Int) → (sum : Nat) → Option Sym
  | [], _, _, _ => none
  | b :: code, L, cur, sum =>
    let sum' := sum + T.count L
    let cur' := 2 * cur + b.toNat - T.count L
    if cur' < 0 then if code = [] then T.symbols[(sum' + cur').toNat]? else none
    else T.lookup code (L + 1) cur' sum'

theorem State.startsWith_pastBits_one {s : State} {b : Bool} {code : List Bool} (hl : 1 ≤ s.bitsLeft)
    (h : s.startsWith (b :: code)) : (s.pastBits 1).startsWith code := fun k hk => by
  rw [State.bitAt_pastBits_one hl, h (k + 1) (by simpa using hk), List.getD_cons_succ]

/-- DECODE resolves a code that stands at the bit cursor to the code's symbol, and consumes exactly the code. -/
theorem decodeFrom_of_lookup {T : Table} {code : List Bool} {n L sum : Nat} {cur : Int} {s : State} {y : Sym}
    (hn : code.length ≤ n) (hs : s.startsWith code) (hl : code.length ≤ s.bitsLeft)
    (hy : T.lookup code L cur sum = some y) :
    decodeFrom T n L cur sum s = .ok y (s.pastBits code.length) := by
  induction code generalizing n L cur sum s with
  | nil => simp [Table.lookup] at hy
  | cons b code ih =>
    simp only [List.length_cons] at hn hl ⊢
    obtain ⟨n, rfl⟩ : ∃ j, n = j + 1 := ⟨n - 1, by omega⟩
    have h1 : 1 ≤ s.bitsLeft := by omega
    have hb : s.bitAt 0 = b := by simpa using hs 0 (by simp)
    rw [decodeFrom, readBit_eq h1, Res.bind_ok, hb, BitVec.toNat_ofBool]
    simp only [Table.lookup] at hy ⊢
    by_cases hneg : 2 * cur + b.toNat - T.count L < 0
    · rw [if_pos hneg] at hy
      obtain ⟨rfl, hsym⟩ := Option.ite_none_right_eq_some.1 hy
      rw [if_pos hneg, Table.symbol, hsym]
      rfl
    · rw [if_neg hneg] at hy
      have hl' : code.length ≤ (s.pastBits 1).bitsLeft := by rw [State.bitsLeft_pastBits_one h1]; omega
      rw [if_neg hneg, ih (by omega) (State.startsWith_pastBits_one h1 hs) hl' hy, State.pastBits_one_pastBits hl]

theorem decodeSymbol_of_lookup {T : Table} {code : List Bool} {s : State} {y : Sym} (hn : code.length ≤ 15)
    (hs : s.startsWith code) (hl : code.length ≤ s.bitsLeft) (hy : T.lookup code 1 0 0 = some y) :
    decodeSymbol T s = .ok y (s.pastBits code.length) :=
  decodeFrom_of_lookup hn hs hl hy

/-- The fixed codes of R96 are those of FL. -/
theorem lookup_fixedLit :
    ∀ y < 288, Table.fixedLit.lookup (fixedLitCode y) 1 0 0 = some (BitVec.ofNat 9 y) := by decide +kernel

/-- In a flat table the 5-bit code of a symbol is the symbol; 19 is the code-length alphabet, 32 the distance one. -/
theorem lookup_flatTable_19 :
    ∀ y < 19, (flatTable 19).lookup (msbFirst 5 y) 1 0 0 = some (BitVec.ofNat 9 y) := by decide +kernel

theorem lookup_flatTable_32 :
    ∀ y < 32, (flatTable 32).lookup (msbFirst 5 y) 1 0 0 = some (BitVec.ofNat 9 y) := by decide +kernel

@[simp] theorem length_msbFirst (n v : Nat) : (msbFirst n v).length = n := by
  induction n with
  | zero => rfl
  | succ n ih => simp [msbFirst, ih]

theorem length_fixedLitCode_le (y : Nat) : (fixedLitCode y).length ≤ 9 := by
  unfold fixedLitCode
  split_ifs <;> simp

/-! ### A bit field that stands at the bit cursor (R66), and the block header (R191) -/

@[simp] theorem length_lsbFirst (n v : Nat) : (lsbFirst n v).length = n := by
  induction n generalizing v with
  | zero => rfl
  | succ n ih => simp [lsbFirst, ih]

theorem getD_lsbFirst {n k : Nat} (v : Nat) (h : k < n) : (lsbFirst n v).getD k false = v.testBit k := by
  induction n generalizing k v with
  | zero => omega
  | succ n ih =>
    cases k with
    | zero => rfl
    | succ k => rw [lsbFirst, List.getD_cons_succ, ih _ (by omega), Nat.testBit_succ]

theorem State.field_eq_mod {s : State} {j n v : Nat} (h : ∀ k < n, s.bitAt (j + k) = v.testBit k) :
    s.field j n = v % 2 ^ n := by
  induction n generalizing j v with
  | zero => simp [State.field, Nat.mod_one]
  | succ n ih =>
    have hrest : s.field (j + 1) n = v / 2 % 2 ^ n := ih fun k hk => by
      rw [Nat.add_assoc, Nat.add_comm 1, h _ (by omega), Nat.testBit_succ]
    have hbit : (s.bitAt j).toNat = v % 2 := by
      rw [← Nat.add_zero j, h 0 (by omega), Nat.toNat_testBit, Nat.pow_zero, Nat.div_one]
    rw [State.field, hrest, hbit, Nat.pow_succ']
    exact (Nat.mod_mul ..).symm

theorem State.field_of_startsWith_lsbFirst {s : State} {n v : Nat} (h : s.startsWith (lsbFirst n v)) :
    s.field 0 n = v % 2 ^ n :=
  State.field_eq_mod fun k hk => by rw [Nat.zero_add, h k (by rwa [length_lsbFirst]), getD_lsbFirst v hk]

/-- BFINAL below the two bits of BTYPE. -/
theorem headerValue_eq : ∀ b : Bool, ∀ x < 4,
    (BitVec.ofNat 16 x).setWidth 2 ++ BitVec.ofBool b = BitVec.ofNat 3 (b.toNat + 2 * x) := by decide

theorem State.pastBits_withIsFinal (s : State) (f : BitVec 1) (n : Nat) :
    State.pastBits { s with isFinal := f } n = { s.pastBits n with isFinal := f } := by
  unfold State.pastBits
  split <;> rfl

/-- The bits of BTYPE, read after BFINAL has been written (R191). -/
theorem readBits_two_withIsFinal {s : State} (f : BitVec 1) (h : 3 ≤ s.bitsLeft) :
    readBits 2 { s.pastBits 1 with isFinal := f } =
      .ok (BitVec.ofNat 16 (s.field 1 2)) { s.pastBits 3 with isFinal := f } := by
  have h1 : 1 ≤ s.bitsLeft := by omega
  have hleft : State.bitsLeft { s.pastBits 1 with isFinal := f } = s.bitsLeft - 1 := State.bitsLeft_pastBits_one h1
  have hfield : State.field { s.pastBits 1 with isFinal := f } 0 2 = s.field 1 2 := State.field_pastBits_one h1 0 2
  rw [readBits_eq (by omega), hfield, State.pastBits_withIsFinal, State.pastBits_one_pastBits h]

/-- BLOCK_HEADER with three bits left. -/
theorem readBlockHeader_eq {s : State} (h : 3 ≤ s.bitsLeft) :
    readBlockHeader s = .ok (BitVec.ofNat 3 (s.field 0 3))
      { (s.setPhase .blockHeader).pastBits 3 with
        isFinal := BitVec.ofBool (s.bitAt 0), btype := (BitVec.ofNat 16 (s.field 1 2)).setWidth 2 } := by
  have hbit : readBit (s.setPhase .blockHeader) =
      .ok (BitVec.ofBool (s.bitAt 0)) ((s.setPhase .blockHeader).pastBits 1) :=
    readBit_eq (show 1 ≤ s.bitsLeft by omega)
  have hbits := readBits_two_withIsFinal (s := s.setPhase .blockHeader) (BitVec.ofBool (s.bitAt 0)) h
  have hvalue := headerValue_eq (s.bitAt 0) (s.field 1 2) (s.field_lt 1 2)
  rw [readBlockHeader, hbit, Res.bind_ok, hbits, Res.bind_ok]
  exact congrArg (Res.ok · _) hvalue

/-! ### Fetch at each kind of slot (R191, R199, R170, R173) -/

/-- The slots whose element the slot alone tells. -/
def decidedSlots : List Slot :=
  [.magic, .method, .flags, .skipFixed, .extra, .name, .comment, .hcrc, .storedLen, .dynHdr, .cll, .trailer]

theorem fetch_of_decidedSlot {s : State} (h : s.slot ∈ decidedSlots) (v : Nat) :
    fetch s = .ok (decode s.slot v) s := by
  simp only [decidedSlots, List.mem_cons, List.not_mem_nil, or_false] at h
  rcases h with h | h | h | h | h | h | h | h | h | h | h | h <;> simp only [fetch, decode, h]

theorem fetch_of_blockHeader {s : State} {v : Nat} (hs : s.slot = .blockHeader) (hl : 3 ≤ s.bitsLeft)
    (hc : s.startsWith (lsbFirst 3 v)) (hv : v < 8) : ∃ t, fetch s = .ok (decode .blockHeader v) t := by
  have hvalue : (BitVec.ofNat 3 (s.field 0 3)).toNat = v := by
    rw [State.field_of_startsWith_lsbFirst hc, BitVec.toNat_ofNat, Nat.mod_mod]
    exact Nat.mod_eq_of_lt hv
  simp only [fetch, hs, readBlockHeader_eq hl, Res.bind_ok, hvalue]
  exact ⟨_, rfl⟩

theorem fetch_of_clSymbol {s t : State} {y : Sym} (hs : s.slot = .clSymbol) (hf : fetchSymbol s.ct s = .ok y t) :
    fetch s = .ok (decode .clSymbol y.toNat) t := by
  simp only [fetch, hs, hf, Res.bind_ok]

theorem fetch_of_litLen {s t : State} {y : Sym} (hs : s.slot = .litLen) (hf : fetchSymbol s.litTable s = .ok y t) :
    fetch s = .ok (decode .litLen y.toNat) t := by
  simp only [fetch, hs, hf, Res.bind_ok]

theorem fetch_of_dist {s t : State} {y : Sym} (hs : s.slot = .dist) (hf : fetchSymbol s.distTable s = .ok y t) :
    fetch s = .ok (decode .dist y.toNat) t := by
  simp only [fetch, hs, hf, Res.bind_ok]

/-! ### The element of a placed table word (log 17, 18) -/

/-- The slots a table word is given: those that tell their element, or one whose alphabet has the word. -/
theorem tableSlot_cases {nbits w : Nat} {slot : Slot} (h : tableSlot nbits w = some slot) :
    slot ∈ decidedSlots ∨ (slot = .blockHeader ∧ w < 8) ∨ (slot = .clSymbol ∧ w < 19) ∨
      (slot = .litLen ∧ w < 288) ∨ (slot = .dist ∧ w < 32) := by
  unfold tableSlot at h
  split at h
  · cases h
  · split at h
    case h_1 | h_2 => split_ifs at h <;> cases h <;> simp [decidedSlots] <;> omega
    case h_6 => cases h
    all_goals cases h; exact .inl (by decide)

theorem decodeTableWord_eq_some {nbits w : Nat} {i : Instr} (h : decodeTableWord nbits w = some i) :
    ∃ slot, tableSlot nbits w = some slot ∧ decode slot w = .ok i := by
  obtain ⟨slot, hslot, hi⟩ := Option.bind_eq_some_iff.1 h
  refine ⟨slot, hslot, ?_⟩
  cases hd : decode slot w with
  | ok j => simpa [hd, Except.toOption] using hi
  | error e => simp [hd, Except.toOption] at hi

/-- The symbol fetched at a placed state, under the table its bits are a code of. -/
theorem fetchSymbol_placeAt {s : State} {slot : Slot} {nbits w : Nat} {T : Table}
    (hp : s.inPos.toNat + placedLength < 2 ^ 32) (hlen : (slotBits slot nbits w).length ≤ 15)
    (hT : T.lookup (slotBits slot nbits w) 1 0 0 = some (BitVec.ofNat 9 w)) (hw : w < 2 ^ 9) :
    ∃ y t, fetchSymbol T (s.placeAt slot nbits w) = .ok y t ∧ y.toNat = w := by
  have hleft := State.bitsLeft_placeAt slot nbits w hp
  have hdec := decodeSymbol_of_lookup hlen (s.startsWith_placeAt (by omega)) (by omega) hT
  exact ⟨_, _, fetchSymbol_eq_ok.2 ⟨_, hdec, rfl⟩, by rw [BitVec.toNat_ofNat, Nat.mod_eq_of_lt hw]⟩

/-- The fetch at a placed state answers what the decoder makes of the placed word. -/
theorem fetch_placeAt {s : State} {slot : Slot} {nbits w : Nat} (hp : s.inPos.toNat + placedLength < 2 ^ 32)
    (hslot : tableSlot nbits w = some slot) : ∃ t, fetch (s.placeAt slot nbits w) = .ok (decode slot w) t := by
  have length_flat : (msbFirst 5 w).length ≤ 15 := by simp
  have length_fixed : (fixedLitCode w).length ≤ 15 := (length_fixedLitCode_le w).trans (by decide)
  rcases tableSlot_cases hslot with h | ⟨rfl, hw⟩ | ⟨rfl, hw⟩ | ⟨rfl, hw⟩ | ⟨rfl, hw⟩
  · exact ⟨_, fetch_of_decidedSlot h w⟩
  · exact fetch_of_blockHeader rfl (by rw [State.bitsLeft_placeAt _ _ _ hp]; decide)
      (s.startsWith_placeAt (by simp [slotBits])) hw
  · obtain ⟨y, t, hf, rfl⟩ :=
      fetchSymbol_placeAt (slot := .clSymbol) (nbits := nbits) hp length_flat (lookup_flatTable_19 w hw) (by omega)
    exact ⟨t, fetch_of_clSymbol rfl hf⟩
  · obtain ⟨y, t, hf, rfl⟩ :=
      fetchSymbol_placeAt (slot := .litLen) (nbits := nbits) hp length_fixed (lookup_fixedLit w hw) (by omega)
    exact ⟨t, fetch_of_litLen rfl hf⟩
  · obtain ⟨y, t, hf, rfl⟩ :=
      fetchSymbol_placeAt (slot := .dist) (nbits := nbits) hp length_flat (lookup_flatTable_32 w hw) (by omega)
    exact ⟨t, fetch_of_dist rfl hf⟩

/-- Settles O7: the placed state is BUSY with no host move pending, so its step runs the element its fetch answers. -/
theorem placedTableWordIsFetchedAndRun : Obligations.PlacedTableWordIsFetchedAndRun := by
  intro s nbits w i hi hp
  obtain ⟨slot, hslot, hd⟩ := decodeTableWord_eq_some hi
  have hplaced : s.withFetchWord nbits w = s.placeAt slot nbits w := by rw [State.withFetchWord, hslot]
  obtain ⟨t, hf⟩ := fetch_placeAt hp hslot
  rw [hd] at hf
  rw [hplaced]
  exact ⟨t, hf, (step_of_no_host rfl).trans (coreStep_of_fetch_ok rfl hf)⟩

end Sys2Proof.Machine
end

section
/-! PROOFS. What an element can do, said once, for every statement about all the elements (10_state.md): it runs some of
five micro-operations and then goes on, stops or ends the session. A property that these keep, every element keeps. -/
namespace Sys2Proof.Machine

variable {α β : Type}

/-! ### The micro-operations an element is made of -/

/-- `t` is `s` but for the registers that only the core's control and tables use (R30, R33 to R36, R38). -/
abbrev State.SameButControl (s t : State) : Prop :=
  t = { s with
    phase := t.phase, phasesHeld := t.phasesHeld, isFinal := t.isFinal, btype := t.btype, lt := t.lt, dt := t.dt
    ct := t.ct, actLt := t.actLt, actDt := t.actDt, work := t.work, crcField := t.crcField, isizeField := t.isizeField
    slot := t.slot, ci := t.ci }

/-- One micro-operation of an element, by what it changes. -/
inductive State.MicroOp (s : State) : State → Prop where
  /-- An input byte is consumed (R120). -/
  | byte (h : s.inPos < s.inLen) : s.MicroOp { s with inPos := s.inPos + 1 }
  /-- The bit buffer is shifted or emptied (R121, R125); between two elements it never holds a whole byte (R24). -/
  | bits (b : Byte) {c : BitVec 4} (h : s.bitcnt.toNat ≤ 7 → c.toNat ≤ 7) :
      s.MicroOp { s with bitbuf := b, bitcnt := c }
  /-- A byte is emitted (R160). -/
  | emit (b : Byte) (h : s.outPos < s.outCap) : s.MicroOp (s.push b)
  /-- Code lengths are written (R32). -/
  | lens {L : Store (BitVec 4)} (h : Memory.wf s.lens → Memory.wf L) : s.MicroOp { s with lens := L }
  /-- Registers of the core's control and its tables are written. -/
  | control {t : State} (h : s.SameButControl t) : s.MicroOp t

/-- `t` is `s` after some micro-operations. -/
abbrev State.Runs : State → State → Prop := Relation.ReflTransGen State.MicroOp

theorem State.Runs.keeps {P : State → Prop} (hP : ∀ s t, State.MicroOp s t → P s → P t) {s t : State}
    (h : s.Runs t) (hs : P s) : P t := by
  induction h with
  | refl => exact hs
  | tail _ hop ih => exact hP _ _ hop ih

/-! ### The shared operations run micro-operations -/

theorem runs_bind {x : Res α} {f : α → State → Res β} {s : State} (hx : s.Runs x.state)
    (hf : ∀ a (t : State), t.Runs (f a t).state) : s.Runs (x.bind f).state := by
  cases x with
  | ok a t => exact hx.trans (hf a t)
  | stop r t => exact hx

theorem readByte_runs (s : State) : s.Runs (readByte s).state := by
  unfold readByte
  split
  · exact .single (.byte ‹_›)
  · exact .refl

theorem readBit_runs (s : State) : s.Runs (readBit s).state := by
  unfold readBit refill
  split
  · have hbyte := readByte_runs s
    cases hread : readByte s with
    | ok b t =>
      rw [hread] at hbyte
      exact hbyte.tail (.bits _ fun _ => show (8 - 1 : BitVec 4).toNat ≤ 7 by decide)
    | stop r t => rwa [hread] at hbyte
  · rename_i hc
    refine .single (.bits _ fun h => ?_)
    have hc' : s.bitcnt.toNat ≠ 0 := fun h0 => hc (BitVec.eq_of_toNat_eq h0)
    rw [BitVec.toNat_sub, show (1 : BitVec 4).toNat = 1 from rfl]
    omega

theorem readBits_runs (n : Nat) (s : State) : s.Runs (readBits n s).state := by
  induction n generalizing s with
  | zero => exact .refl
  | succ n ih => exact runs_bind (readBit_runs s) fun _ t => runs_bind (ih t) fun _ _ => .refl

theorem readBased_runs (base n : Nat) (s : State) : s.Runs (readBased base n s).state :=
  runs_bind (readBits_runs n s) fun _ _ => .refl

theorem read16LE_runs (s : State) : s.Runs (read16LE s).state :=
  runs_bind (readByte_runs s) fun _ t => runs_bind (readByte_runs t) fun _ _ => .refl

theorem read32LE_runs (s : State) : s.Runs (read32LE s).state :=
  runs_bind (readByte_runs s) fun _ t => runs_bind (readByte_runs t) fun _ t =>
    runs_bind (readByte_runs t) fun _ t => runs_bind (readByte_runs t) fun _ _ => .refl

theorem align_runs (s : State) : s.Runs (align s) := .single (.bits 0 fun _ => by decide)

theorem skipBytes_runs (n : Nat) (s : State) : s.Runs (skipBytes n s).state := by
  induction n generalizing s with
  | zero => exact .refl
  | succ n ih => exact runs_bind (readByte_runs s) fun _ t => ih t

theorem skipZeroTerminatedWithin_runs (n : Nat) (s : State) : s.Runs (skipZeroTerminatedWithin n s).state := by
  induction n generalizing s with
  | zero => exact .refl
  | succ n ih =>
    refine runs_bind (readByte_runs s) fun b t => ?_
    split
    · exact .refl
    · exact ih t

theorem emit_runs (b : Byte) (s : State) : s.Runs (emit b s).state := by
  unfold emit
  split
  · exact .single (.emit b ‹_›)
  · exact .refl

theorem copyMatch_runs (n : Nat) (d : BitVec 16) (s : State) : s.Runs (copyMatch n d s).state := by
  induction n generalizing s with
  | zero => exact .refl
  | succ n ih => exact runs_bind (emit_runs _ s) fun _ t => ih t

theorem copyStored_runs (n : Nat) (s : State) : s.Runs (copyStored n s).state := by
  induction n generalizing s with
  | zero => exact .refl
  | succ n ih => exact runs_bind (readByte_runs s) fun b t => runs_bind (emit_runs b t) fun _ t => ih t

theorem decodeFrom_runs (T : Table) (n L : Nat) (cur : Int) (sum : Nat) (s : State) :
    s.Runs (decodeFrom T n L cur sum s).state := by
  induction n generalizing L cur sum s with
  | zero => exact .refl
  | succ n ih =>
    refine runs_bind (readBit_runs s) fun b t => ?_
    dsimp only
    split
    · exact .refl
    · exact ih ..

theorem fetchSymbol_runs (T : Table) (s : State) : s.Runs (fetchSymbol T s).state :=
  runs_bind (decodeFrom_runs T 15 1 0 0 s) fun _ _ => .single (.control rfl)

theorem readBlockHeader_runs (s : State) : s.Runs (readBlockHeader s).state := by
  have hphase : s.Runs (s.setPhase .blockHeader) := .single (.control rfl)
  refine runs_bind (hphase.trans (readBit_runs _)) fun f t => ?_
  have hfinal : t.Runs { t with isFinal := f } := .single (.control rfl)
  exact runs_bind (hfinal.trans (readBits_runs 2 _)) fun _ _ => .single (.control rfl)

/-- The fetch of an element runs micro-operations too. -/
theorem fetch_runs (s : State) : s.Runs (fetch s).state := by
  unfold fetch
  split
  case h_1 => exact runs_bind (readBlockHeader_runs s) fun _ _ => .refl
  case h_2 | h_3 | h_4 => exact runs_bind (fetchSymbol_runs _ s) fun _ _ => .refl
  all_goals exact .refl

/-! ### How an element ends -/

/-- An element from `s` answers `o`: micro-operations run, and then the session goes on, stops (R252) or has ended in
success (R233). -/
def State.Ends (s : State) (o : Host.Outcome State Fault Refusal) : Prop :=
  ∃ t, s.Runs t ∧ (o = .next t ∨ (∃ r, o = .next (t.enterStop r)) ∨ o = .next t.succeed)

theorem State.Ends.after {s t : State} {o : Host.Outcome State Fault Refusal} (h : s.Runs t) (ho : t.Ends o) :
    s.Ends o := by
  obtain ⟨u, hu, ho⟩ := ho
  exact ⟨u, h.trans hu, ho⟩

theorem State.Ends.goesOn {s t : State} (h : s.Runs t) : s.Ends (.next t) := ⟨t, h, .inl rfl⟩

theorem State.Ends.stops (r : Stop) (s : State) : s.Ends (Res.stop r s).finish := ⟨s, .refl, .inr (.inl ⟨r, rfl⟩)⟩

theorem State.Ends.succeeds (s : State) : s.Ends (.next s.succeed) := ⟨s, .refl, .inr (.inr rfl)⟩

theorem ends_bind {x : Res α} {f : α → State → Res Unit} {s : State} (hx : s.Runs x.state)
    (hf : ∀ a (t : State), t.Ends (f a t).finish) : s.Ends (x.bind f).finish := by
  cases x with
  | ok a t => exact .after hx (hf a t)
  | stop r t => exact .after hx (.stops r t)

/-- An element whose last act is to write control registers. -/
theorem ends_control {s t : State} (h : s.SameButControl t) : s.Ends (.next t) :=
  .goesOn (.single (.control h))

/-! ### The container's elements (R221 to R233) -/

theorem execMagic_ends (s : State) : s.Ends (execMagic s) := by
  refine ends_bind (readByte_runs s) fun id1 t => ?_
  split
  · exact .stops ..
  · refine ends_bind (readByte_runs t) fun id2 u => ?_
    split
    · exact .stops ..
    · exact ends_control rfl

theorem execMethod_ends (s : State) : s.Ends (execMethod s) := by
  refine ends_bind (readByte_runs s) fun cm t => ?_
  split
  · exact .stops ..
  · exact ends_control rfl

theorem execFlags_ends (s : State) : s.Ends (execFlags s) :=
  ends_bind (readByte_runs s) fun _ _ => ends_control rfl

theorem execSkipFixed_ends (s : State) : s.Ends (execSkipFixed s) :=
  ends_bind (read32LE_runs s) fun _ t => ends_bind (readByte_runs t) fun _ u =>
    ends_bind (readByte_runs u) fun _ _ => ends_control rfl

theorem execExtra_ends (s : State) : s.Ends (execExtra s) := by
  refine ends_bind (read16LE_runs s) fun n t => ?_
  have hxlen : t.Runs { t with work := { t.work with xlen := n } } := .single (.control rfl)
  exact ends_bind (hxlen.trans (skipBytes_runs _ _)) fun _ _ => ends_control rfl

theorem execName_ends (s : State) : s.Ends (execName s) :=
  ends_bind (skipZeroTerminatedWithin_runs _ s) fun _ _ => ends_control rfl

theorem execComment_ends (s : State) : s.Ends (execComment s) :=
  ends_bind (skipZeroTerminatedWithin_runs _ s) fun _ _ => ends_control rfl

theorem execHcrc_ends (s : State) : s.Ends (execHcrc s) :=
  ends_bind (read16LE_runs s) fun _ _ => ends_control rfl

theorem execTrailer_ends (s : State) : s.Ends (execTrailer s) := by
  have hphase : s.Runs (s.setPhase .trailer) := .single (.control rfl)
  refine ends_bind (hphase.trans (read32LE_runs _)) fun crc t => ?_
  have hcrc : t.Runs { t with crcField := crc } := .single (.control rfl)
  refine ends_bind (hcrc.trans (read32LE_runs _)) fun isize u => ?_
  have hisize : u.Runs { u with isizeField := isize } := .single (.control rfl)
  exact .after hisize (.succeeds _)

/-! ### The blocks and the table description (R191 to R204) -/

theorem execStoredLen_ends (s : State) : s.Ends (execStoredLen s) := by
  refine ends_bind ((align_runs s).trans (read16LE_runs _)) fun len t => ?_
  have hlen : t.Runs { t with work := { t.work with storedLen := len } } := .single (.control rfl)
  refine ends_bind (hlen.trans (read16LE_runs _)) fun nlen u => ?_
  have hnlen : u.Runs { u with work := { u.work with storedNlen := nlen } } := .single (.control rfl)
  dsimp only
  split
  · exact .after hnlen (.stops ..)
  · exact ends_bind (hnlen.trans (copyStored_runs _ _)) fun _ _ => ends_control rfl

theorem nextCodeLength_runs (s : State) : s.Runs s.nextCodeLength := by
  unfold State.nextCodeLength
  split <;> exact .single (.control rfl)

theorem pushCodeLens_runs (n : Nat) (v : BitVec 4) (s : State) : s.Runs (s.pushCodeLens n v) :=
  .tail (.single (.lens (Memory.wf_fill n _ v))) (.control rfl)

/-- Code lengths appended, and what comes next (R199). -/
theorem pushCodeLens_ends (n : Nat) (v : BitVec 4) (s : State) : s.Ends (.next (s.pushCodeLens n v).nextCodeLength) :=
  .goesOn ((pushCodeLens_runs n v s).trans (nextCodeLength_runs _))

theorem repeatLen_ends (base n : Nat) (v : BitVec 4) (s : State) : s.Ends (repeatLen base n v s).finish := by
  refine ends_bind (readBased_runs base n s) fun rep t => ?_
  have hrep : t.Runs { t with work := { t.work with rep := BitVec.ofNat 8 rep } } := .single (.control rfl)
  dsimp only
  split
  · exact .after hrep (.stops ..)
  · exact .after hrep (pushCodeLens_ends ..)

theorem execDynHdr_ends (s : State) : s.Ends (execDynHdr s) := by
  refine ends_bind (readBits_runs 5 s) fun hlit t => ?_
  have hhlit : t.Runs { t with work := { t.work with hlit := hlit.setWidth 5 } } := .single (.control rfl)
  refine ends_bind (hhlit.trans (readBits_runs 5 _)) fun hdist u => ?_
  have hhdist : u.Runs { u with work := { u.work with hdist := hdist.setWidth 5 } } := .single (.control rfl)
  refine ends_bind (hhdist.trans (readBits_runs 4 _)) fun hclen v => ?_
  dsimp only
  have hwf := Memory.wf_fill (m := v.lens) 19 0 0
  generalize Memory.fill 19 0 0 v.lens = L at hwf ⊢
  exact .after (.single (.lens hwf)) (ends_control rfl)

theorem execCll_ends (s : State) : s.Ends (execCll s) := by
  refine ends_bind (readBits_runs 3 s) fun v t => ?_
  have hlens : t.Runs (t.setCodeLen (perm t.ci) (v.setWidth 4)) := .single (.lens (Memory.wf_set _ _))
  dsimp only
  split
  · exact .after hlens (ends_control rfl)
  · exact .goesOn ((hlens.tail (.control rfl)).trans (nextCodeLength_runs _))

theorem execClRep16_ends (s : State) : s.Ends (execClRep16 s) := by
  unfold execClRep16
  split
  · exact .stops ..
  · exact repeatLen_ends ..

/-! ### The expander (R171 to R178) -/

theorem execLit_ends (sym : Sym) (s : State) : s.Ends (execLit sym s) :=
  ends_bind (emit_runs _ s) fun _ _ => ends_control rfl

theorem matchLength_ends (base n : Nat) (s : State) : s.Ends (matchLength base n s) :=
  ends_bind (readBased_runs base n s) fun _ _ => ends_control rfl

theorem runMatch_ends (s : State) : s.Ends (runMatch s).finish := by
  unfold runMatch
  split
  · exact .stops ..
  · exact ends_bind (copyMatch_runs _ _ s) fun _ _ => ends_control rfl

theorem matchDistance_ends (base n : Nat) (s : State) : s.Ends (matchDistance base n s) :=
  ends_bind (readBased_runs base n s) fun _ _ => .after (.single (.control rfl)) (runMatch_ends _)

/-- Every element runs micro-operations and ends in one of the three ways. -/
theorem exec_ends (i : Instr) (s : State) : s.Ends (exec i s) := by
  cases i
  case magic => exact execMagic_ends s
  case method => exact execMethod_ends s
  case flags => exact execFlags_ends s
  case skipFixed => exact execSkipFixed_ends s
  case extra => exact execExtra_ends s
  case name => exact execName_ends s
  case comment => exact execComment_ends s
  case hcrc => exact execHcrc_ends s
  case trailer => exact execTrailer_ends s
  case blockStored | blockFixed | blockDynamic | eob => exact ends_control rfl
  case blockReserved f => exact .after (t := s.setBlock f 3) (.single (.control rfl)) (.stops ..)
  case storedLen => exact execStoredLen_ends s
  case dynHdr => exact execDynHdr_ends s
  case cll => exact execCll_ends s
  case clLit => exact pushCodeLens_ends ..
  case clRep16 => exact execClRep16_ends s
  case clZero17 | clZero18 => exact repeatLen_ends ..
  case lit => exact execLit_ends ..
  case invalidLen | invalidDist => exact .stops ..
  case len257 | len258 | len259 | len260 | len261 | len262 | len263 | len264 | len285 => exact matchLength_ends _ 0 s
  case len265 | len266 | len267 | len268 |
      len269 | len270 | len271 | len272 | len273 | len274 | len275 | len276 | len277 | len278 | len279 | len280 |
      len281 | len282 | len283 | len284 => exact matchLength_ends ..
  case dist0 | dist1 | dist2 | dist3 | dist4 | dist5 | dist6 | dist7 | dist8 | dist9 | dist10 | dist11 | dist12 |
      dist13 | dist14 | dist15 | dist16 | dist17 | dist18 | dist19 | dist20 | dist21 | dist22 | dist23 | dist24 |
      dist25 | dist26 | dist27 | dist28 | dist29 => exact matchDistance_ends ..

/-! ### What the micro-operations and the ends keep, every element keeps -/

/-- `P` is kept by all an element can do. -/
structure KeptByElements (P : State → Prop) : Prop where
  op : ∀ s t, State.MicroOp s t → P s → P t
  stop : ∀ s r, P s → P (s.enterStop r)
  succeed : ∀ s, P s → P s.succeed

theorem KeptByElements.exec {P : State → Prop} (hP : KeptByElements P) {i : Instr} {s t : State}
    (h : exec i s = .next t) (hs : P s) : P t := by
  obtain ⟨u, hu, ho⟩ := exec_ends i s
  have hPu : P u := hu.keeps hP.op hs
  rw [h] at ho
  rcases ho with ho | ⟨r, ho⟩ | ho <;> injection ho with ho <;> subst ho
  · exact hPu
  · exact hP.stop u r hPu
  · exact hP.succeed u hPu

theorem KeptByElements.coreStep {P : State → Prop} (hP : KeptByElements P) {s t : State}
    (h : coreStep s = .next t) (hs : P s) : P t := by
  have hfetch : P (fetch s).state := (fetch_runs s).keeps hP.op hs
  rcases coreStep_next h with ⟨-, rfl⟩ | ⟨-, r, u, hf, rfl⟩ | ⟨-, i, u, hf, he⟩
  · exact hs
  · rw [hf] at hfetch
    exact hP.stop u r hfetch
  · rw [hf] at hfetch
    exact hP.exec he hfetch

/-- What the elements and the host's moves keep, every step keeps. -/
theorem KeptByElements.step {P : State → Prop} (hP : KeptByElements P)
    (hqueue : ∀ (s : State) rest, P s → P { s with host := rest })
    (hhost : ∀ m s t, hostStep m s = .next t → P s → P t) {s t : State} (h : step s = .next t) (hs : P s) : P t := by
  rcases step_cases s with ⟨-, he⟩ | ⟨rest, -, he⟩ | ⟨m, rest, -, he⟩ <;> rw [he] at h
  · exact hP.coreStep h hs
  · exact hP.coreStep h (hqueue s rest hs)
  · exact hhost m _ t h (hqueue s rest hs)

/-! ### The cursors (R21 to R28) -/

/-- EMIT keeps the cursor relations: `wcur` and `emitted` go on with `out_pos` (R160). -/
theorem State.CursorsOk.push {s : State} (hs : s.CursorsOk) (b : Byte) (h : s.outPos < s.outCap) :
    (s.push b).CursorsOk := by
  have hroom := s.outPos_lt_iff.1 h
  have hpos := State.toNat_outPos_push b hroom
  have hcap : s.outPos.toNat < s.outCap.toNat := h
  have hemitted : (s.push b).emitted.toNat = min 32768 (s.push b).outPos.toNat := by
    have he := hs.emitted
    rw [hpos, State.push_emitted]
    split
    · rename_i hlt
      have hlt' : s.emitted.toNat < 32768 := hlt
      rw [BitVec.toNat_add, show (1 : BitVec 16).toNat = 1 from rfl]
      omega
    · rename_i hge
      have hge' : ¬ s.emitted.toNat < 32768 := hge
      rw [show (32768 : BitVec 16).toNat = 32768 from rfl]
      omega
  have hwcur : (s.push b).wcur.toNat = (s.push b).outPos.toNat % 32768 := by
    rw [hpos, State.toNat_wcur_push, hs.wcur, Nat.mod_add_mod]
  exact ⟨hs.bitcnt, hemitted, hwcur, hs.inPos, fun _ => hpos ▸ hcap⟩

theorem cursorsOk_op (s t : State) (h : s.MicroOp t) (hs : s.CursorsOk) : t.CursorsOk := by
  cases h with
  | byte h =>
    have hpos := s.toNat_pastBytes (s.inPos_lt_iff.1 h)
    have hlt : s.inPos.toNat < s.inLen.toNat := h
    exact ⟨hs.bitcnt, hs.emitted, hs.wcur, fun _ => hpos.trans_le hlt, hs.outPos⟩
  | bits b h => exact ⟨h hs.bitcnt, hs.emitted, hs.wcur, hs.inPos, hs.outPos⟩
  | emit b h => exact hs.push b h
  | lens h => exact ⟨hs.bitcnt, hs.emitted, hs.wcur, hs.inPos, hs.outPos⟩
  | control h =>
    rw [h]
    exact ⟨hs.bitcnt, hs.emitted, hs.wcur, hs.inPos, hs.outPos⟩

/-- The relations that hold in every session state are kept where the core is no longer BUSY. -/
theorem State.CursorsOk.of_not_busy {s t : State} (hs : s.CursorsOk) (hb : t.state ≠ .busy)
    (hc : t.bitcnt = s.bitcnt) (he : t.emitted = s.emitted) (hw : t.wcur = s.wcur) (ho : t.outPos = s.outPos) :
    t.CursorsOk :=
  ⟨hc ▸ hs.bitcnt, by rw [he, ho]; exact hs.emitted, by rw [hw, ho]; exact hs.wcur, fun h => absurd h hb,
    fun h => absurd h hb⟩

theorem cursorsOk_keptByElements : KeptByElements State.CursorsOk where
  op := cursorsOk_op
  stop s r hs := hs.of_not_busy (by simp) rfl rfl rfl rfl
  succeed s hs := hs.of_not_busy (by simp [State.succeed]) rfl rfl rfl rfl

/-- Where START and power-on reset leave the cursors (R49, R50). -/
theorem State.cursorsOk_of_zero {s : State} (hc : s.bitcnt = 0) (he : s.emitted = 0) (hw : s.wcur = 0)
    (hi : s.inPos = 0) (ho : s.outPos = 0) : s.CursorsOk :=
  ⟨by simp [hc], by simp [he, ho], by simp [hw, ho], by simp [hi], by simp [ho]⟩

theorem cursorsOk_hostStep (m : HostMove) (s t : State) (h : hostStep m s = .next t) (hs : s.CursorsOk) :
    t.CursorsOk := by
  rcases hostStep_next h with h | ⟨hb, h⟩ | ⟨-, -, -, rfl⟩ | ⟨addr, b, -, rfl⟩ | rfl
  · rw [h]
    exact ⟨hs.bitcnt, hs.emitted, hs.wcur, hs.inPos, hs.outPos⟩
  · rw [h]
    exact hs.of_not_busy hb rfl rfl rfl rfl
  · exact State.cursorsOk_of_zero rfl rfl rfl rfl rfl
  · exact ⟨hs.bitcnt, hs.emitted, hs.wcur, hs.inPos, hs.outPos⟩
  · exact State.cursorsOk_of_zero rfl rfl rfl rfl rfl

/-- Settles O51: the micro-operations, the ends of an element and the host's moves each keep the cursor relations. -/
theorem cursorsStayInBounds : Obligations.CursorsStayInBounds := fun _ _ hs h =>
  cursorsOk_keptByElements.step
    (fun _ _ hs => ⟨hs.bitcnt, hs.emitted, hs.wcur, hs.inPos, hs.outPos⟩) cursorsOk_hostStep h hs

/-! ### The outcome registers (R37, R241, R250) -/

theorem outcomeOk_op (s t : State) (h : s.MicroOp t) (hs : s.OutcomeOk) : t.OutcomeOk := by
  cases h with
  | byte | bits | emit | lens => exact ⟨hs.clear, hs.stopped⟩
  | control h =>
    rw [h]
    exact ⟨hs.clear, hs.stopped⟩

theorem State.outcomeOk_of_clear {s : State} (hf : s.state ≠ .failed) (hc : s.cls = .failure) (hk : s.kind = 0)
    (hd : s.detail = 0) : s.OutcomeOk :=
  ⟨fun _ => ⟨hc, hk, hd⟩, fun h => absurd h hf⟩

theorem outcomeOk_keptByElements : KeptByElements State.OutcomeOk where
  op := outcomeOk_op
  stop s r _ := ⟨fun h => absurd rfl h, fun _ => ⟨r, rfl, rfl, rfl⟩⟩
  succeed s _ := State.outcomeOk_of_clear (by simp [State.succeed]) rfl rfl rfl

theorem outcomeOk_hostStep (m : HostMove) (s t : State) (h : hostStep m s = .next t) (hs : s.OutcomeOk) :
    t.OutcomeOk := by
  rcases hostStep_next h with h | ⟨-, h⟩ | ⟨-, -, -, rfl⟩ | ⟨addr, b, -, rfl⟩ | rfl
  · rw [h]
    exact ⟨hs.clear, hs.stopped⟩
  · rw [h]
    exact ⟨hs.clear, hs.stopped⟩
  · exact State.outcomeOk_of_clear (by simp [State.startSession]) rfl rfl rfl
  · exact ⟨hs.clear, hs.stopped⟩
  · exact State.outcomeOk_of_clear (by simp [State.powerOn, State.reset]) rfl rfl rfl

/-- Settles O52: only stop entry makes a core FAILED, and whatever leaves FAILED clears the three registers. -/
theorem outcomeRegistersStayArchitected : Obligations.OutcomeRegistersStayArchitected := fun _ _ hs h =>
  outcomeOk_keptByElements.step (fun _ _ hs => ⟨hs.clear, hs.stopped⟩) outcomeOk_hostStep h hs

/-! ### The host's side (R47, R60, R257) -/

/-- `t` has the host's side of `s`: registers, parameters, moves, and every byte outside the output still to come. -/
structure State.HostSideKept (s t : State) : Prop where
  inBase : t.inBase = s.inBase
  inLen : t.inLen = s.inLen
  outBase : t.outBase = s.outBase
  outCap : t.outCap = s.outCap
  coreBase : t.coreBase = s.coreBase
  hostAddrW : t.hostAddrW = s.hostAddrW
  host : t.host = s.host
  busData : t.busData = s.busData
  unseen : t.unseen = s.unseen
  session : t.session = s.session
  freeCount : t.freeCount = s.freeCount
  outPos : s.outPos.toNat ≤ t.outPos.toNat
  bytes : s.KeptOutside t (s.outBase.toNat + s.outPos.toNat) (s.outBase.toNat + s.outCap.toNat)

theorem State.HostSideKept.refl (s : State) : s.HostSideKept s :=
  ⟨rfl, rfl, rfl, rfl, rfl, rfl, rfl, rfl, rfl, rfl, rfl, le_rfl, fun _ _ => rfl⟩

theorem State.HostSideKept.trans {s t u : State} (h : s.HostSideKept t) (h' : t.HostSideKept u) :
    s.HostSideKept u where
  inBase := h'.inBase.trans h.inBase
  inLen := h'.inLen.trans h.inLen
  outBase := h'.outBase.trans h.outBase
  outCap := h'.outCap.trans h.outCap
  coreBase := h'.coreBase.trans h.coreBase
  hostAddrW := h'.hostAddrW.trans h.hostAddrW
  host := h'.host.trans h.host
  busData := h'.busData.trans h.busData
  unseen := h'.unseen.trans h.unseen
  session := h'.session.trans h.session
  freeCount := h'.freeCount.trans h.freeCount
  outPos := h.outPos.trans h'.outPos
  bytes a ha := by
    have hpos := h.outPos
    rw [h'.bytes a (by rw [h.outBase, h.outCap]; omega), h.bytes a ha]

theorem State.MicroOp.hostSideKept {s t : State} (h : s.MicroOp t) : s.HostSideKept t := by
  cases h with
  | byte | bits | lens => exact ⟨rfl, rfl, rfl, rfl, rfl, rfl, rfl, rfl, rfl, rfl, rfl, le_rfl, fun _ _ => rfl⟩
  | emit b h =>
    have hpos := State.toNat_outPos_push b (s.outPos_lt_iff.1 h)
    have hlt : s.outPos.toNat < s.outCap.toNat := h
    have hbytes : s.KeptOutside (s.push b) (s.outBase.toNat + s.outPos.toNat) (s.outBase.toNat + s.outCap.toNat) :=
      fun a ha => by rw [State.hostByte_push, if_neg (by omega)]
    exact ⟨rfl, rfl, rfl, rfl, rfl, rfl, rfl, rfl, rfl, rfl, rfl, by omega, hbytes⟩
  | control h =>
    rw [h]
    exact ⟨rfl, rfl, rfl, rfl, rfl, rfl, rfl, rfl, rfl, rfl, rfl, le_rfl, fun _ _ => rfl⟩

theorem State.hostSideKept_enterStop (s : State) (r : Stop) : s.HostSideKept (s.enterStop r) :=
  ⟨rfl, rfl, rfl, rfl, rfl, rfl, rfl, rfl, rfl, rfl, rfl, le_rfl,
    fun a ha => by rw [State.hostByte_enterStop, if_neg ha]⟩

theorem hostSideKept_keptByElements (s : State) : KeptByElements s.HostSideKept where
  op _ _ h hs := hs.trans h.hostSideKept
  stop t r hs := hs.trans (t.hostSideKept_enterStop r)
  succeed _ hs :=
    hs.trans ⟨rfl, rfl, rfl, rfl, rfl, rfl, rfl, rfl, rfl, rfl, rfl, le_rfl, fun _ _ => rfl⟩

theorem exec_next (i : Instr) (s : State) : ∃ t, exec i s = .next t := by
  obtain ⟨_, -, h | ⟨_, h⟩ | h⟩ := exec_ends i s <;> exact ⟨_, h⟩

/-- Settles O38: each micro-operation and each end keeps the host's side, EMIT writing only into the output. -/
theorem elementsLeaveTheHostSide : Obligations.ElementsLeaveTheHostSide := by
  intro i s
  obtain ⟨t, ht⟩ := exec_next i s
  have h : s.HostSideKept t := (hostSideKept_keptByElements s).exec ht (.refl s)
  exact ⟨t, ht, h.inBase, h.inLen, h.outBase, h.outCap, h.coreBase, h.hostAddrW, h.host, h.busData, h.unseen,
    h.session, h.freeCount, h.bytes⟩

end Sys2Proof.Machine
end

section
/-! PROOFS. The register block (10_state.md, section 7): what a move of the host's is, and what each register access
reads, writes and leaves. -/
namespace Sys2Proof.Machine

/-! ### One move of the host (R39, R46, R275) -/

theorem step_of_move {s : State} {m : HostMove} {rest : List HostMove} (h : s.host = m :: rest) (hm : m ≠ .idle) :
    step s = hostStep m { s with host := rest } := by
  cases m with
  | idle => exact absurd rfl hm
  | regRead | regWrite | memRead | memWrite | powerOn => simp only [step, h]

@[simp] theorem State.regOffset_add (s : State) (off : Word) : s.regOffset (s.coreBase + off) = off := by
  rw [State.regOffset, BitVec.add_comm, BitVec.add_sub_cancel]

theorem State.inBlock_add (s : State) {off : Word} (h : off.toNat < 0x1000) : s.inBlock (s.coreBase + off) = true := by
  rw [State.inBlock, State.regOffset_add, decide_eq_true_iff, BitVec.lt_def]
  exact h

theorem aligned32_four {off : Word} (h : off.toNat % 4 = 0) : aligned32 off 4 = true := by
  simp [aligned32, h]

/-- An aligned 32-bit read of the register block is the read of the register at its offset. -/
theorem step_regRead {s : State} {off : Word} {rest : List HostMove} (hoff : off.toNat < 0x1000)
    (hal : off.toNat % 4 = 0) (h : s.host = .regRead (s.coreBase + off) 4 :: rest) :
    step s = .next (State.readReg { s with host := rest } off) := by
  have hblock := State.inBlock_add { s with host := rest } hoff
  have hoffset := State.regOffset_add { s with host := rest } off
  rw [step_of_move h nofun]
  simp only [hostStep, hblock, hoffset, aligned32_four hal, Bool.not_true, Bool.false_eq_true, if_false]

/-- An aligned 32-bit write of the register block is the write of the register at its offset. -/
theorem step_regWrite {s : State} {off v : Word} {rest : List HostMove} (hoff : off.toNat < 0x1000)
    (hal : off.toNat % 4 = 0) (h : s.host = .regWrite (s.coreBase + off) 4 v :: rest) :
    step s = State.writeReg { s with host := rest } off v := by
  have hblock := State.inBlock_add { s with host := rest } hoff
  have hoffset := State.regOffset_add { s with host := rest } off
  rw [step_of_move h nofun]
  simp only [hostStep, hblock, hoffset, aligned32_four hal, Bool.not_true, Bool.false_eq_true, if_false]

theorem step_writeCtrl {s : State} {v : Word} {rest : List HostMove} (h : s.host = .regWrite s.coreBase 4 v :: rest) :
    step s = State.writeReg { s with host := rest } 0 v :=
  step_regWrite (by decide) (by decide) (by simpa using h)

/-! ### Register writes (R40 to R47) -/

theorem State.writeReg_of_busy {s : State} (hb : s.state = .busy) (off v : Word) : s.writeReg off v = .next s :=
  if_pos hb

/-- STATUS, the read-only registers and the unassigned offsets ignore a write. -/
theorem State.writeReg_of_readOnly (s : State) {off : Word} (v : Word) (h : off = 0x04 ∨ 0x18 ≤ off.toNat) :
    s.writeReg off v = .next s := by
  have hoff : off.toNat = 0x04 ∨ 0x18 ≤ off.toNat := h.imp_left (congrArg BitVec.toNat)
  unfold State.writeReg
  split
  · rfl
  · split
    case h_6 => rfl
    all_goals omega

/-- A write of CTRL with bit 0 set is START (R40). -/
theorem State.writeReg_ctrl {s : State} {v : Word} (hb : s.state ≠ .busy) (hv : v.getLsbD 0 = true) :
    s.writeReg 0 v = s.start :=
  (if_neg hb).trans (if_pos hv)

/-- Settles O45: the offset of the write tells which register it is. -/
theorem registerWritesTakeEffectOnlyWhenNotBusy : Obligations.RegisterWritesTakeEffectOnlyWhenNotBusy := by
  intro s off v rest hoff hal h
  rw [step_regWrite hoff hal h]
  refine ⟨fun hb => State.writeReg_of_busy (s := { s with host := rest }) hb off v, fun hb => ?_⟩
  refine ⟨?_, ?_, ?_, ?_, ?_, State.writeReg_of_readOnly _ v⟩
  · rintro rfl hv
    exact (if_neg hb).trans (if_neg (ne_true_of_eq_false hv))
  all_goals
    rintro rfl
    exact if_neg hb

/-! ### Register reads (R39 to R46) -/

/-- The registers by their offset in words, CTRL and STATUS (which has a rule of its own) as 0. -/
def State.registers (s : State) : List Word :=
  [0, 0, s.inBase, s.inLen, s.outBase, s.outCap, s.inPos, s.outPos, s.crcField, s.isizeField]

theorem State.readCount_of_not_busy {s : State} (hb : s.state ≠ .busy) (v : Word) :
    s.readCount v = { s with busData := v } :=
  if_neg hb

theorem State.readStatus_of_not_busy {s : State} (hb : s.state ≠ .busy) :
    s.readStatus = { s with busData := s.status, unseen := [] } :=
  if_neg hb

theorem State.readReg_eq {s : State} {off : Word} (hal : off.toNat % 4 = 0) (hstatus : off ≠ 0x04)
    (hcount : s.state = .busy → off ≠ 0x18 ∧ off ≠ 0x1C) :
    s.readReg off = { s with busData := s.registers.getD (off.toNat / 4) 0 } := by
  have hne (c : Word) (h : off.toNat = c.toNat) : off = c := BitVec.eq_of_toNat_eq h
  unfold State.readReg
  split
  case h_1 h => exact absurd (hne 0x04 h) hstatus
  case h_6 h =>
    rw [h, State.readCount_of_not_busy fun hb => (hcount hb).1 (hne 0x18 h)]
    rfl
  case h_7 h =>
    rw [h, State.readCount_of_not_busy fun hb => (hcount hb).2 (hne 0x1C h)]
    rfl
  case h_10 =>
    have hrest : off.toNat / 4 = 0 ∨ s.registers.length ≤ off.toNat / 4 := by
      simp only [imp_false, State.registers, List.length_cons, List.length_nil] at *
      omega
    rcases hrest with h | h
    · rw [h]
      rfl
    · rw [List.getD_eq_default _ _ h]
  all_goals
    rename_i h
    rw [h]
    rfl

/-- Settles O46: STATUS is read by its own rule, the other registers stand in `State.registers`. -/
theorem registerReadsReturnTheRegisters : Obligations.RegisterReadsReturnTheRegisters := by
  intro s off rest hoff hal h
  rw [step_regRead hoff hal h]
  refine ⟨?_, fun hstatus hcount => congrArg _ (State.readReg_eq hal hstatus hcount)⟩
  rintro rfl hb
  exact congrArg _ (State.readStatus_of_not_busy (s := { s with host := rest }) hb)

/-! ### The positions (R22, R28, R44) -/

theorem heldCount_le (v : Word) (n : Nat) : heldCount v n ≤ v := by
  have hle : n % (v.toNat + 1) ≤ v.toNat := Nat.lt_succ_iff.1 (Nat.mod_lt _ v.toNat.succ_pos)
  rw [BitVec.le_def, heldCount, BitVec.toNat_ofNat]
  exact (Nat.mod_le _ _).trans hle

theorem State.readCount_frame (s : State) (v : Word) :
    s.readCount v = { s with busData := (s.readCount v).busData, freeCount := (s.readCount v).freeCount } := by
  unfold State.readCount
  split <;> rfl

theorem State.busData_readCount_le {s : State} (hb : s.state = .busy) (v : Word) :
    (s.readCount v).busData ≤ v := by
  have hread : (s.readCount v).busData = heldCount v (Config.choice s.freeCount) := by
    rw [State.readCount, if_pos hb]
    rfl
  exact hread ▸ heldCount_le v _

/-- Settles O48: a read of a position is `readCount` of its cursor, and a write of it is ignored. -/
theorem positionReadsWhileBusyAreEarlierValues : Obligations.PositionReadsWhileBusyAreEarlierValues := by
  intro s rest
  refine ⟨fun off v hv h => ?_, fun off v hoff h => ?_⟩
  · have hread : step s = .next (State.readCount { s with host := rest } v) := by
      rcases hv with ⟨rfl, rfl⟩ | ⟨rfl, rfl⟩ <;> exact step_regRead (by decide) (by decide) h
    exact ⟨_, hread, State.readCount_frame _ v,
      fun hb => congrArg State.busData (State.readCount_of_not_busy (s := { s with host := rest }) hb v),
      fun hb => State.busData_readCount_le (s := { s with host := rest }) hb v⟩
  · rcases hoff with rfl | rfl <;>
    · rw [step_regWrite (by decide) (by decide) h, State.writeReg_of_readOnly _ v (by decide)]

/-! ### STATUS (R35, R37, R41) -/

/-- Where each field of a STATUS value stands (R41). -/
theorem State.statusWord_fields (s : State) (p : Phase) (f : BitVec 1) :
    (s.statusWord p f).extractLsb' 0 2 = s.state.code ∧
      (s.statusWord p f).extractLsb' 2 1 = (if s.state = .failed then s.cls.code else 0) ∧
      (s.statusWord p f).extractLsb' 3 1 = 0 ∧
      (s.statusWord p f).extractLsb' 4 4 = (if s.state = .failed then s.kind else 0) ∧
      (s.statusWord p f).extractLsb' 8 1 = s.detail ∧ (s.statusWord p f).extractLsb' 9 3 = 0 ∧
      (s.statusWord p f).extractLsb' 12 4 = p.code ∧ (s.statusWord p f).extractLsb' 16 1 = f ∧
      (s.statusWord p f).extractLsb' 17 15 = 0 := by
  unfold State.statusWord
  simp (disch := decide) only [BitVec.extractLsb'_append_eq_of_le, BitVec.extractLsb'_append_eq_of_add_le,
    decide_eq_true_eq, -Nat.reduceAdd]
  refine ⟨?_, ?_, ?_, ?_, ?_, ?_, ?_, ?_, ?_⟩ <;> exact BitVec.extractLsb'_eq_self

/-- CLASS, the reserved bit 3 and KIND are 0 unless FAILED, bits 3:2 as one field. -/
theorem State.statusWord_of_not_failed {s : State} (hs : s.state ≠ .failed) (p : Phase) (f : BitVec 1) :
    (s.statusWord p f).extractLsb' 2 2 = 0 ∧ (s.statusWord p f).extractLsb' 4 4 = 0 := by
  obtain ⟨-, hcls, hres, hkind, -⟩ := s.statusWord_fields p f
  rw [if_neg hs] at hcls hkind
  refine ⟨?_, hkind⟩
  rw [← BitVec.extractLsb'_append_extractLsb'_eq_extractLsb' (start₂ := 3) (len₂ := 1) (len₁ := 1) rfl, hcls, hres]
  rfl

theorem State.heldPhase_mem {s : State} (h : s.phasesHeld ≠ []) (n : Nat) : s.heldPhase n ∈ s.phasesHeld := by
  have hlt : n % s.phasesHeld.length < s.phasesHeld.length := Nat.mod_lt _ (List.length_pos_iff.2 h)
  rw [State.heldPhase, List.getD_eq_getElem _ _ hlt]
  exact List.getElem_mem hlt

theorem State.heldFinal_le (s : State) (n : Nat) : s.heldFinal n ≤ s.isFinal := by
  unfold State.heldFinal
  split
  · rename_i h
    rw [h, BitVec.le_def]
    exact Nat.lt_succ_iff.1 (BitVec.ofNat 1 n).isLt
  · exact Nat.zero_le _

theorem Res.finish_bind_next {α : Type} {x : Res α} {f : α → State → Res Unit} {t : State}
    (h : (x.bind f).finish = .next t) :
    (∃ r u, t = State.enterStop r u) ∨ ∃ a u, (f a u).finish = .next t := by
  cases x with
  | ok a u => exact .inr ⟨a, u, h⟩
  | stop r u =>
    injection h with h
    exact .inl ⟨r, u, h.symm⟩

/-- TRAILER stops or ends the session in success (R231, R233). -/
theorem execTrailer_next {s t : State} (h : execTrailer s = .next t) :
    (∃ r u, t = State.enterStop r u) ∨ ∃ u, t = State.succeed u := by
  rcases Res.finish_bind_next h with h | ⟨crc, u, h⟩
  · exact .inl h
  · rcases Res.finish_bind_next h with h | ⟨isize, v, h⟩
    · exact .inl h
    · injection h with h
      exact .inr ⟨_, h.symm⟩

theorem execTrailer_phase {s t : State} (h : execTrailer s = .next t) (hd : t.state = .done) :
    t.phase = .sessionEnd := by
  rcases execTrailer_next h with ⟨r, u, rfl⟩ | ⟨u, rfl⟩
  · cases hd
  · rfl

/-- A read of STATUS while BUSY: a phase held, a FINAL_SEEN held, and nothing else but the model's counters. -/
theorem State.readStatus_of_busy {s : State} (hb : s.state = .busy) (hp : s.phasesHeld ≠ []) :
    ∃ p ∈ s.phasesHeld, ∃ f, f ≤ s.isFinal ∧
      s.readStatus = { s with busData := s.statusWord p f, freeCount := s.readStatus.freeCount } := by
  refine ⟨s.heldPhase (Config.choice s.freeCount), State.heldPhase_mem hp _,
    s.heldFinal (Config.choice (s.freeCount + 1)), s.heldFinal_le _, ?_⟩
  rw [State.readStatus, if_pos hb]
  rfl

/-- Settles O47: the fields are those of `State.statusWord`, at rest with the phase and is_final the core has, while
BUSY with some it has held. -/
theorem statusFieldsAreWhereTheRegisterSays : Obligations.StatusFieldsAreWhereTheRegisterSays := by
  intro s
  refine ⟨s.statusWord_fields s.phase s.isFinal, rfl, rfl, rfl, fun _ => rfl, fun _ => execTrailer_phase,
    ?_, ?_, ?_, ?_⟩
  · intro rest h
    exact ⟨_, step_of_move h nofun, rfl⟩
  · intro rest hb h
    have hread := State.readStatus_of_not_busy (s := { s with host := rest }) hb
    exact ⟨_, step_regRead (by decide) (by decide) h, congrArg State.busData hread⟩
  · intro v rest h
    rw [step_regWrite (by decide) (by decide) h, State.writeReg_of_readOnly _ v (.inl rfl)]
  · intro rest hb hp h
    obtain ⟨p, hmem, f, hle, hread⟩ := State.readStatus_of_busy (s := { s with host := rest }) hb hp
    have hstep : step s = .next (State.readStatus { s with host := rest }) :=
      step_regRead (by decide) (by decide) h
    generalize State.readStatus { s with host := rest } = t at hread hstep
    have hbus : t.busData = s.statusWord p f := congrArg State.busData hread
    obtain ⟨hstate, -, -, -, hdetail, hres, hphase, hfinal, hzero⟩ := s.statusWord_fields p f
    obtain ⟨hcls, hkind⟩ := State.statusWord_of_not_failed (s := s) (by simp [hb]) p f
    rw [hb] at hstate
    refine ⟨p, hmem, f, t, hstep, hle, hbus, ?_⟩
    rw [hbus]
    exact ⟨hstate, hcls, hkind, hdetail, hres, hphase, hfinal, hzero, hread⟩

end Sys2Proof.Machine
end

section
/-! PROOFS. Power-on reset, START, which of the host's moves are refused and which are served, and the fetch of a symbol
(10_state.md). -/
namespace Sys2Proof.Machine

/-! ### Host memory, and output not yet visible (R72, R74) -/

/-- The host's write of a byte changes that byte and no other. -/
theorem State.hostByte_set (s : State) (b : Byte) (i a : Nat) :
    State.hostByte { s with mem := Memory.set s.mem i b } a = if a = i then b else s.hostByte a := by
  simp only [State.hostByte, Memory.get?_set]
  split <;> rfl

theorem State.unseen_iff (s : State) (a : Nat) :
    s.Unseen a ↔ (s.unseen.any fun r => decide (r.1 ≤ a) && decide (a < r.2)) = true := by
  simp [State.Unseen]

theorem State.readMem_of_seen {s : State} {a : Nat} (h : ¬ s.Unseen a) :
    s.readMem a = { s with busData := (s.hostByte a).setWidth 32 } :=
  if_neg (mt (s.unseen_iff a).2 h)

theorem State.busData_readMem_lt {s : State} {a : Nat} (h : s.Unseen a) : (s.readMem a).busData.toNat < 256 := by
  have hread : (s.readMem a).busData = (BitVec.ofNat 8 (Config.choice s.freeCount)).setWidth 32 := by
    rw [State.readMem, if_pos ((s.unseen_iff a).1 h)]
    rfl
  rw [hread, BitVec.toNat_setWidth_of_le (by decide)]
  exact BitVec.isLt _

/-! ### Power-on reset (R49, R270) -/

theorem State.powerOn_values (s : State) : s.powerOn.PowerOnValues where
  outcome := ⟨rfl, rfl, rfl, rfl⟩
  phase := rfl
  block := ⟨rfl, rfl⟩
  cursors := ⟨rfl, rfl⟩
  bits := ⟨rfl, rfl⟩
  window := ⟨rfl, rfl⟩
  trailer := ⟨rfl, rfl⟩
  regions := ⟨rfl, rfl, rfl, rfl⟩
  status := show State.reset.status = 0 by decide

theorem step_powerOn {s : State} {rest : List HostMove} (h : s.host = .powerOn :: rest) :
    step s = .next (State.powerOn { s with host := rest }) :=
  step_of_move h nofun

/-- A core that is not BUSY holds its state while the host makes no move (R254, R263, R270). -/
theorem step_of_rest {s : State} (hh : s.host = []) (hb : s.state ≠ .busy) : step s = .next s :=
  (step_of_no_host hh).trans (coreStep_of_not_busy hb)

/-- Settles O43: `State.reset` is what power-on reset makes of itself. -/
theorem resetValues : Obligations.ResetValues :=
  ⟨State.reset.powerOn_values, step_of_rest rfl nofun, fun _ _ h =>
    ⟨_, step_powerOn h, State.powerOn_values _, rfl, fun hrest => step_of_rest hrest nofun, rfl, rfl,
      fun _ => ⟨rfl, Iff.rfl⟩⟩⟩

/-- Settles O57: nothing is listed in the reset state's memories, its cursors are 0 and it is not BUSY. -/
theorem resetSatisfiesTheInvariants : Obligations.ResetSatisfiesTheInvariants :=
  have hb : State.reset.state ≠ .busy := nofun
  ⟨State.reset_canonical, State.cursorsOk_of_zero rfl rfl rfl rfl rfl, State.outcomeOk_of_clear nofun rfl rfl rfl,
    ⟨fun h => absurd h hb, fun h => absurd h hb⟩, fun h => absurd h hb,
    { phase := fun h => absurd h hb
      phaseHeld := fun h => absurd h hb
      codeLengthTable := fun h => absurd h hb
      litTable := fun h => absurd h hb
      distTable := fun h => absurd h hb
      codeLengths := fun h => absurd h hb
      fieldIndex := fun h => absurd h hb
      index := fun h => absurd h hb
      matchLen := fun h => absurd h hb }⟩

/-! ### START (R40, R50, R271) -/

theorem step_start {s : State} {v : Word} {rest : List HostMove} (hb : s.state ≠ .busy) (hv : v.getLsbD 0 = true)
    (h : s.host = .regWrite s.coreBase 4 v :: rest) : step s = State.start { s with host := rest } :=
  (step_writeCtrl h).trans (State.writeReg_ctrl (s := { s with host := rest }) hb hv)

/-- A launch with regions that neither wrap nor overlap. -/
theorem State.start_eq {s : State} (hw : s.regionWraps = false) (ho : s.regionsOverlap = false) :
    s.start = .next s.startSession :=
  (if_neg (ne_true_of_eq_false hw)).trans (if_neg (ne_true_of_eq_false ho))

/-- START makes the output region not yet visible (R72). -/
theorem State.unseen_startSession (s : State) (a : Nat) :
    s.startSession.Unseen a ↔ s.inOutput a = true ∨ s.Unseen a := by
  simp [State.Unseen, State.startSession, State.inOutput]

/-- Settles O44: the write is START, and each value is one `State.startSession` writes or leaves. -/
theorem startBeginsASession : Obligations.StartBeginsASession := by
  intro s v rest hb hw ho hv h
  have hstart := State.start_eq (s := { s with host := rest }) hw ho
  refine ⟨_, (step_start hb hv h).trans hstart, rfl, rfl, rfl, rfl, rfl, rfl, rfl, rfl, rfl, rfl, rfl, rfl, rfl, rfl,
    rfl, rfl, rfl, rfl, rfl, fun _ => rfl, rfl, rfl, rfl, State.unseen_startSession _⟩

/-! ### Moves refused and moves served (R39, R46, R72 to R76) -/

/-- A host read of memory outside the register block: only the output of a BUSY core is refused. -/
theorem step_memRead {s : State} {addr : Word} {rest : List HostMove} (hblock : s.inBlock addr = false)
    (h : s.host = .memRead addr :: rest) :
    step s = if s.state = .busy ∧ s.inOutput addr.toNat then .refused .outputAccessedWhileBusy
      else .next (State.readMem { s with host := rest } addr.toNat) :=
  (step_of_move h nofun).trans (if_neg (ne_true_of_eq_false hblock))

/-- A host write of memory outside the register block: only the regions of a BUSY core are refused. -/
theorem step_memWrite {s : State} {addr : Word} {b : Byte} {rest : List HostMove} (hblock : s.inBlock addr = false)
    (h : s.host = .memWrite addr b :: rest) :
    step s = if s.state = .busy ∧ s.inInput addr.toNat then .refused .inputWrittenWhileBusy
      else if s.state = .busy ∧ s.inOutput addr.toNat then .refused .outputAccessedWhileBusy
      else .next { s with host := rest, mem := Memory.set s.mem addr.toNat b } :=
  (step_of_move h nofun).trans (if_neg (ne_true_of_eq_false hblock))

/-- Settles O49: each clause is a branch of `hostStep` or of START. -/
theorem refusedHostMoves : Obligations.RefusedHostMoves := by
  intro s rest addr u
  refine ⟨?_, ?_, ?_, ?_, ?_, ?_, ?_, ?_, ?_, fun h => ⟨_, step_powerOn h, State.powerOn_values _⟩⟩
  · intro bytes v hblock hnarrow h
    have inside : ¬ (!s.inBlock addr) = true := by simp [hblock]
    have narrow : (!aligned32 (s.regOffset addr) bytes) = true := by simp [hnarrow]
    rcases h with h | h <;> exact (step_of_move h nofun).trans ((if_neg inside).trans (if_pos narrow))
  · intro b hblock h
    rcases h with h | h <;> exact (step_of_move h nofun).trans (if_pos hblock)
  · intro bytes v hblock h
    have outside : (!s.inBlock addr) = true := by simp [hblock]
    rcases h with h | h <;> exact (step_of_move h nofun).trans (if_pos outside)
  · intro b hblock hb hin h
    rw [step_memWrite hblock h, if_pos ⟨hb, hin⟩]
  · intro hblock hb hout h
    rw [step_memRead hblock h, if_pos ⟨hb, hout⟩]
  · intro b hblock hb hin hout h
    rw [step_memWrite hblock h, if_neg (by simp [hin]), if_pos ⟨hb, hout⟩]
  · intro v hb hv h
    rw [step_start hb hv h]
    exact ⟨fun hw => if_pos hw, fun hw ho => (if_neg (ne_true_of_eq_false hw)).trans (if_pos ho)⟩
  · intro b hblock hfree h
    have not_in : ¬ (s.state = .busy ∧ s.inInput addr.toNat = true) := fun h => by simp [hfree h.1] at h
    have not_out : ¬ (s.state = .busy ∧ s.inOutput addr.toNat = true) := fun h => by simp [hfree h.1] at h
    exact ⟨by rw [step_memWrite hblock h, if_neg not_in, if_neg not_out], fun a => u.hostByte_set b _ a⟩
  · intro hblock hfree h
    have not_out : ¬ (s.state = .busy ∧ s.inOutput addr.toNat = true) := fun h => by simp [hfree h.1] at h
    have hread : step s = .next (u.readMem addr.toNat) := by rw [step_memRead hblock h, if_neg not_out]
    exact ⟨fun hseen => hread.trans (congrArg _ (State.readMem_of_seen (s := u) hseen)),
      fun hunseen => ⟨_, hread, State.busData_readMem_lt (s := u) hunseen, u.readMem_frame _⟩⟩

/-! ### The fetch of a symbol (R34, R141, R170, R173, R199) -/

/-- Where DECODE with the table of the slot stops, the fetch does (R141, R144, R252). -/
theorem fetch_stop_of_decodeSymbol {s t : State} {r : Stop}
    (h : (s.slot = .clSymbol ∧ decodeSymbol s.ct s = .stop r t) ∨
      (s.slot = .litLen ∧ decodeSymbol s.litTable s = .stop r t) ∨
      (s.slot = .dist ∧ decodeSymbol s.distTable s = .stop r t)) : fetch s = .stop r t := by
  rcases h with ⟨hs, h⟩ | ⟨hs, h⟩ | ⟨hs, h⟩ <;>
  · simp only [fetch, hs, fetchSymbol_eq_stop.2 h, Res.bind_stop]

/-- At a slot that tells its element, the slot decides. -/
theorem decode_of_decidedSlot {slot : Slot} (h : slot ∈ decidedSlots) (v : Nat) : ∃ i, decode slot v = .ok i := by
  simp only [decidedSlots, List.mem_cons, List.not_mem_nil, or_false] at h
  rcases h with rfl | rfl | rfl | rfl | rfl | rfl | rfl | rfl | rfl | rfl | rfl | rfl <;> exact ⟨_, rfl⟩

/-- Settles O15: a symbol slot is fetched by DECODE with its table, a slot that tells its element without a bit read. -/
theorem fetchDecodesTheElementAtTheSlot : Obligations.FetchDecodesTheElementAtTheSlot := by
  intro s
  refine ⟨fun y t hs h => ?_, fun y t hs h => ?_, fun y t hs h => ?_, fun r t h => ?_, fun hs => ?_⟩
  · exact fetch_of_clSymbol hs (fetchSymbol_eq_ok.2 ⟨t, h, rfl⟩)
  · exact fetch_of_litLen hs (fetchSymbol_eq_ok.2 ⟨t, h, rfl⟩)
  · exact fetch_of_dist hs (fetchSymbol_eq_ok.2 ⟨t, h, rfl⟩)
  · have hf := fetch_stop_of_decodeSymbol h
    exact ⟨hf, fun hb hh => (step_of_no_host hh).trans (coreStep_of_fetch_stop hb hf)⟩
  · obtain ⟨i, hi⟩ := decode_of_decidedSlot hs 0
    exact ⟨i, hi, by rw [fetch_of_decidedSlot hs 0, hi]⟩

end Sys2Proof.Machine
end

section
/-! PROOFS. The memories (20_memory.md): their canonical form, the regions of a session, and the host bytes no step of a
session changes. -/
namespace Sys2Proof.Machine

/-! ### The canonical form (R60, R61, R63) -/

theorem canonical_op (s t : State) (h : s.MicroOp t) (hs : s.Canonical) : t.Canonical := by
  cases h with
  | byte | bits => exact ⟨hs.mem, hs.ring, hs.lens⟩
  | emit b => exact ⟨Memory.wf_set _ b hs.mem, Memory.wf_set _ b hs.ring, hs.lens⟩
  | lens h => exact ⟨hs.mem, hs.ring, h hs.lens⟩
  | control h =>
    rw [h]
    exact ⟨hs.mem, hs.ring, hs.lens⟩

theorem canonical_keptByElements : KeptByElements State.Canonical where
  op := canonical_op
  stop _ _ hs := ⟨Memory.wf_forget _ _ hs.mem, hs.ring, hs.lens⟩
  succeed _ hs := ⟨hs.mem, hs.ring, hs.lens⟩

theorem canonical_hostStep (m : HostMove) (s t : State) (h : hostStep m s = .next t) (hs : s.Canonical) :
    t.Canonical := by
  rcases hostStep_next h with h | ⟨-, h⟩ | ⟨-, -, -, rfl⟩ | ⟨addr, b, -, rfl⟩ | rfl
  · rw [h]
    exact ⟨hs.mem, hs.ring, hs.lens⟩
  · rw [h]
    exact ⟨hs.mem, hs.ring, hs.lens⟩
  · exact ⟨hs.mem, .nil, .nil⟩
  · exact ⟨Memory.wf_set addr b hs.mem, hs.ring, hs.lens⟩
  · exact ⟨hs.mem, .nil, .nil⟩

/-- Settles O50: a memory is only written, filled, forgotten in part or emptied, and each keeps the canonical form. -/
theorem memoriesStayCanonical : Obligations.MemoriesStayCanonical := fun _ _ hs h =>
  canonical_keptByElements.step (fun _ _ hs => ⟨hs.mem, hs.ring, hs.lens⟩) canonical_hostStep h hs

/-! ### The regions of a session (R47, R75, R76) -/

theorem State.regionsOk_of_not_busy {s : State} (h : s.state ≠ .busy) : s.RegionsOk :=
  ⟨fun hb => absurd hb h, fun hb => absurd hb h⟩

theorem regionsOk_op (s t : State) (h : s.MicroOp t) (hs : s.RegionsOk) : t.RegionsOk := by
  cases h with
  | byte | bits | emit | lens => exact ⟨hs.inside, hs.apart⟩
  | control h =>
    rw [h]
    exact ⟨hs.inside, hs.apart⟩

theorem regionsOk_keptByElements : KeptByElements State.RegionsOk where
  op := regionsOk_op
  stop _ _ _ := State.regionsOk_of_not_busy nofun
  succeed _ _ := State.regionsOk_of_not_busy nofun

/-- Only START makes a core BUSY, and it has checked the regions; the region registers are written while not BUSY. -/
theorem regionsOk_hostStep (m : HostMove) (s t : State) (h : hostStep m s = .next t) (hs : s.RegionsOk) :
    t.RegionsOk := by
  rcases hostStep_next h with h | ⟨hb, h⟩ | ⟨-, hwraps, hoverlap, rfl⟩ | ⟨addr, b, -, rfl⟩ | rfl
  · rw [h]
    exact ⟨hs.inside, hs.apart⟩
  · rw [h]
    exact State.regionsOk_of_not_busy hb
  · exact ⟨fun _ => hwraps, fun _ => hoverlap⟩
  · exact ⟨hs.inside, hs.apart⟩
  · exact State.regionsOk_of_not_busy nofun

/-- Settles O53: the micro-operations, the ends of an element and the host's moves each keep the regions apart. -/
theorem sessionRegionsStayApart : Obligations.SessionRegionsStayApart := fun _ _ hs h =>
  regionsOk_keptByElements.step (fun _ _ hs => ⟨hs.inside, hs.apart⟩) regionsOk_hostStep h hs

/-! ### Input bytes and bytes already emitted (R61, R62, R74, R255) -/

/-- Host address `a` holds an input byte, or an output byte already emitted. -/
def State.InputOrEmitted (s : State) (a : Nat) : Prop :=
  s.inInput a = true ∨ (s.outBase.toNat ≤ a ∧ a < s.outBase.toNat + s.outPos.toNat)

/-- Regions that do not overlap share no address. -/
theorem State.inOutput_eq_false_of_inInput {s : State} {a : Nat} (h : s.regionsOverlap = false)
    (ha : s.inInput a = true) : s.inOutput a = false := by
  rw [← Bool.not_eq_true]
  intro hout
  simp only [State.inInput, State.inOutput, Bool.and_eq_true, decide_eq_true_iff] at ha hout
  have hzero : (0 : Word).toNat = 0 := rfl
  have hin : s.inLen ≠ 0 := fun h0 => by rw [h0] at ha; omega
  have hcap : s.outCap ≠ 0 := fun h0 => by rw [h0] at hout; omega
  have hoverlap : s.regionsOverlap = true := by
    simp only [State.regionsOverlap, Bool.and_eq_true, decide_eq_true_iff]
    exact ⟨⟨⟨hin, hcap⟩, by omega⟩, by omega⟩
  exact absurd hoverlap (ne_true_of_eq_false h)

/-- No such byte lies in the output still to come, where EMIT and stop entry change host memory. -/
theorem State.InputOrEmitted.not_still_to_come {s : State} {a : Nat} (h : s.regionsOverlap = false)
    (ha : s.InputOrEmitted a) :
    ¬ (s.outBase.toNat + s.outPos.toNat ≤ a ∧ a < s.outBase.toNat + s.outCap.toNat) := by
  rcases ha with hin | hemitted
  · have hout := State.inOutput_eq_false_of_inInput h hin
    simp only [State.inOutput, Bool.and_eq_false_iff, decide_eq_false_iff_not] at hout
    omega
  · omega

/-- Each such byte lies in one of the two regions. -/
theorem State.InputOrEmitted.inInput_or_inOutput {s : State} {a : Nat} (h : s.outPos.toNat ≤ s.outCap.toNat)
    (ha : s.InputOrEmitted a) : s.inInput a = true ∨ s.inOutput a = true := by
  refine ha.imp_right fun hemitted => ?_
  simp only [State.inOutput, Bool.and_eq_true, decide_eq_true_iff]
  omega

theorem coreStep_keeps_inputOrEmitted {s t : State} {a : Nat} (ho : s.regionsOverlap = false)
    (h : coreStep s = .next t) (ha : s.InputOrEmitted a) : t.hostByte a = s.hostByte a :=
  ((hostSideKept_keptByElements s).coreStep h (.refl s)).bytes a (ha.not_still_to_come ho)

/-- While BUSY the host writes no register and no byte of a region; power-on reset keeps host memory. -/
theorem hostStep_keeps_inputOrEmitted {m : HostMove} {s t : State} {a : Nat} (hb : s.state = .busy)
    (hcap : s.outPos.toNat ≤ s.outCap.toNat) (h : hostStep m s = .next t) (ha : s.InputOrEmitted a) :
    t.hostByte a = s.hostByte a := by
  rcases hostStep_next h with h | ⟨hnb, -⟩ | ⟨hnb, -⟩ | ⟨addr, b, hfree, rfl⟩ | rfl
  · rw [h]
    rfl
  · exact absurd hb hnb
  · exact absurd hb hnb
  · obtain ⟨hin, hout⟩ := hfree hb
    have hne : a ≠ addr := by
      rintro rfl
      simpa [hin, hout] using ha.inInput_or_inOutput hcap
    rw [State.hostByte_set, if_neg hne]
  · rfl

/-- Settles O59: the core changes only output still to come, the host only bytes outside the regions. -/
theorem inputAndEmittedBytesStayInASession : Obligations.InputAndEmittedBytesStayInASession := by
  intro s t hb hc hr h a ha
  have hcap := hc.outPos hb
  have ho := hr.apart hb
  rcases step_cases s with ⟨-, he⟩ | ⟨rest, -, he⟩ | ⟨m, rest, -, he⟩ <;> rw [he] at h
  · exact coreStep_keeps_inputOrEmitted ho h ha
  · exact coreStep_keeps_inputOrEmitted (s := { s with host := rest }) ho h ha
  · exact hostStep_keeps_inputOrEmitted (s := { s with host := rest }) hb hcap h ha

end Sys2Proof.Machine
end

section
/-! PROOFS. The decoder (30_encoding.md): the values each alphabet has, and DECODE of the codes of R96 against the fixed
tables. An unassigned code leaves a remainder that is not negative where the table has no longer code (R144). -/
namespace Sys2Proof.Machine

/-! ### The values each alphabet has (R85, R90, R91, R93) -/

/-- At `slot` exactly the values below `bound` are accepted, each as the well-formed element it encodes. -/
def AcceptsBelow (slot : Slot) (bound : Nat) : Prop :=
  ∀ v, (∃ i, decode slot v = .ok i ∧ v < bound ∧ i.WellFormed ∧ encode i = (slot, v)) ∨
    ∃ e, decode slot v = .error e ∧ bound ≤ v

theorem AcceptsBelow.ok_iff {slot : Slot} {bound : Nat} (h : AcceptsBelow slot bound) (v : Nat) :
    (∃ i, decode slot v = .ok i) ↔ v < bound := by
  rcases h v with ⟨i, hi, hv, -⟩ | ⟨e, he, hv⟩
  · exact ⟨fun _ => hv, fun _ => ⟨i, hi⟩⟩
  · simp [he, hv]

theorem AcceptsBelow.encode_eq {slot : Slot} {bound v : Nat} {i : Instr} (h : AcceptsBelow slot bound)
    (hi : decode slot v = .ok i) : i.WellFormed ∧ encode i = (slot, v) := by
  rcases h v with ⟨j, hj, -, hwf⟩ | ⟨e, he, -⟩
  · cases hi.symm.trans hj
    exact hwf
  · cases hi.symm.trans he

/-- A symbol within a bound below the symbols' width is itself as an operand. -/
theorem ofNat_le_and_toNat_eq {v b : Nat} (hv : v ≤ b) (hb : b < 2 ^ 9) :
    BitVec.ofNat 9 v ≤ BitVec.ofNat 9 b ∧ (BitVec.ofNat 9 v).toNat = v := by
  rw [BitVec.le_def, BitVec.toNat_ofNat, BitVec.toNat_ofNat, Nat.mod_eq_of_lt hb, Nat.mod_eq_of_lt (hv.trans_lt hb)]
  exact ⟨hv, rfl⟩

theorem acceptsBelow_blockHeader : AcceptsBelow .blockHeader 8 := by
  intro v
  by_cases hv : 8 ≤ v
  · exact .inr ⟨_, if_pos hv, hv⟩
  · have hlt : v < 8 := by omega
    interval_cases v <;> exact .inl ⟨_, rfl, hlt, rfl, rfl⟩

theorem acceptsBelow_clSymbol : AcceptsBelow .clSymbol 19 := by
  intro v
  by_cases hv : v ≤ 15
  · obtain ⟨hle, heq⟩ := ofNat_le_and_toNat_eq hv (by decide)
    exact .inl ⟨_, if_pos hv, by omega, decide_eq_true hle, congrArg (Prod.mk _) heq⟩
  · simp only [decode, decodeCodeLength, if_neg hv]
    split
    case h_4 => exact .inr ⟨_, rfl, by grind⟩
    all_goals exact .inl ⟨_, rfl, by decide, rfl, rfl⟩

theorem acceptsBelow_litLen : AcceptsBelow .litLen 288 := by
  intro v
  by_cases hv : v ≤ 255
  · obtain ⟨hle, heq⟩ := ofNat_le_and_toNat_eq hv (by decide)
    exact .inl ⟨_, if_pos hv, by omega, decide_eq_true hle, congrArg (Prod.mk _) heq⟩
  · simp only [decode, decodeLitLen, if_neg hv]
    unfold decodeLength
    split
    case h_33 => exact .inr ⟨_, rfl, by grind⟩
    all_goals exact .inl ⟨_, rfl, by decide, rfl, rfl⟩

theorem acceptsBelow_dist : AcceptsBelow .dist 32 := by
  intro v
  simp only [decode]
  unfold decodeDist
  split
  case h_33 => exact .inr ⟨_, rfl, by grind⟩
  all_goals exact .inl ⟨_, rfl, by decide, rfl, rfl⟩

/-- Settles O2: each of the four alphabets accepts exactly the values below its size. -/
theorem symbolsDecodeToTheirOwnElement : Obligations.SymbolsDecodeToTheirOwnElement := by
  refine ⟨acceptsBelow_blockHeader.ok_iff, acceptsBelow_clSymbol.ok_iff, acceptsBelow_litLen.ok_iff,
    acceptsBelow_dist.ok_iff, fun slot v i hslot hi => ?_⟩
  simp only [List.mem_cons, List.not_mem_nil, or_false] at hslot
  rcases hslot with rfl | rfl | rfl | rfl
  · exact acceptsBelow_blockHeader.encode_eq hi
  · exact acceptsBelow_clSymbol.encode_eq hi
  · exact acceptsBelow_litLen.encode_eq hi
  · exact acceptsBelow_dist.encode_eq hi

open Laws.Encoding in
/-- Settles O3: at a slot the words are the values the elements encode to, and a table word is given its slot first. -/
theorem tableValuesDecode : Obligations.TableValuesDecode :=
  ⟨blockDynamic 1 rfl, clLit 8 rfl, clZero18 rfl, lit 65 rfl, eob rfl, len285 rfl, invalidLen 287 rfl, dist29 rfl,
    invalidDist 30 rfl, rfl, rfl⟩

/-! ### The fixed literal/length codes (R96, R142) -/

/-- Settles O4: the fixed code of a symbol looks the symbol up in FL. -/
theorem fixedLiteralLengthCodesDecode : Obligations.FixedLiteralLengthCodesDecode := fun _ y hy hs hl =>
  decodeSymbol_of_lookup ((length_fixedLitCode_le y).trans (by decide)) hs hl (lookup_fixedLit y (by omega))

/-! ### Bits consumed in two parts (R126) -/

theorem State.bitsLeft_pastBits {s : State} {n : Nat} (h : n ≤ s.bitsLeft) :
    (s.pastBits n).bitsLeft = s.bitsLeft - n := by
  induction n generalizing s with
  | zero => rw [State.pastBits_zero, Nat.sub_zero]
  | succ n ih =>
    have h1 := State.bitsLeft_pastBits_one (s := s) (by omega)
    rw [← State.pastBits_one_pastBits h, ih (by omega), h1, Nat.sub_sub, Nat.add_comm]

theorem State.pastBits_pastBits {s : State} {m n : Nat} (h : m + n ≤ s.bitsLeft) :
    (s.pastBits m).pastBits n = s.pastBits (m + n) := by
  induction m generalizing s with
  | zero => rw [State.pastBits_zero, Nat.zero_add]
  | succ m ih =>
    have h1 := State.bitsLeft_pastBits_one (s := s) (by omega)
    rw [← State.pastBits_one_pastBits (by omega), ih (by omega), State.pastBits_one_pastBits (by omega),
      Nat.add_right_comm]

/-! ### DECODE of an unassigned code (R141, R144) -/

/-- One round of DECODE's loop with a bit left. -/
theorem decodeFrom_succ {T : Table} {n L sum : Nat} {cur : Int} {s : State} (h : 1 ≤ s.bitsLeft) :
    decodeFrom T (n + 1) L cur sum s =
      if 2 * cur + (s.bitAt 0).toNat - T.count L < 0 then
        .ok (T.symbol ((sum + T.count L : Nat) + (2 * cur + (s.bitAt 0).toNat - T.count L)).toNat) (s.pastBits 1)
      else decodeFrom T n (L + 1) (2 * cur + (s.bitAt 0).toNat - T.count L) (sum + T.count L) (s.pastBits 1) := by
  rw [decodeFrom, readBit_eq h, Res.bind_ok, BitVec.toNat_ofBool]

/-- The remainder the loop of DECODE has after `code`, from code length `L` on, if it resolves none of `code`'s bits. -/
def Table.remainder (T : Table) : (code : List Bool) → (L : Nat) → (cur : Int) → Option Int
  | [], _, cur => some cur
  | b :: code, L, cur =>
    let cur' := 2 * cur + b.toNat - T.count L
    if cur' < 0 then none else T.remainder code (L + 1) cur'

/-- DECODE reads on past bits that leave a remainder. -/
theorem decodeFrom_of_remainder {T : Table} {code : List Bool} {L sum : Nat} {cur cur' : Int} {s : State}
    (hs : s.startsWith code) (hl : code.length ≤ s.bitsLeft) (hr : T.remainder code L cur = some cur') (n : Nat) :
    ∃ sum', decodeFrom T (n + code.length) L cur sum s =
      decodeFrom T n (L + code.length) cur' sum' (s.pastBits code.length) := by
  induction code generalizing L cur sum s with
  | nil =>
    cases hr
    exact ⟨sum, by rw [List.length_nil, State.pastBits_zero]; rfl⟩
  | cons b code ih =>
    simp only [List.length_cons] at hl ⊢
    have h1 : 1 ≤ s.bitsLeft := by omega
    have hb : s.bitAt 0 = b := hs 0 (Nat.succ_pos _)
    have hl' : code.length ≤ (s.pastBits 1).bitsLeft := by rw [State.bitsLeft_pastBits_one h1]; omega
    obtain ⟨hpos, hr⟩ := Option.ite_none_left_eq_some.1 hr
    obtain ⟨sum', h⟩ := ih (State.startsWith_pastBits_one h1 hs) hl' hr
    refine ⟨sum', ?_⟩
    rw [← Nat.add_assoc, decodeFrom_succ h1, hb, if_neg hpos, h, State.pastBits_one_pastBits hl, Nat.add_right_comm,
      Nat.add_assoc]

/-- Where the table has no longer code, a remainder that is not negative stays so: DECODE reads all its bits and
raises HuffmanNoSymbol (R144). -/
theorem decodeFrom_of_no_longer_code {T : Table} {n L sum : Nat} {cur : Int} {s : State}
    (hT : ∀ k, L ≤ k → k < L + n → T.count k = 0) (hcur : 0 ≤ cur) (hl : n ≤ s.bitsLeft) :
    decodeFrom T n L cur sum s = .stop .huffmanNoSymbol (s.pastBits n) := by
  induction n generalizing L cur sum s with
  | zero => rw [State.pastBits_zero]; rfl
  | succ n ih =>
    have h1 : 1 ≤ s.bitsLeft := by omega
    have hcount : T.count L = 0 := hT L le_rfl (by omega)
    have hl' : n ≤ (s.pastBits 1).bitsLeft := by rw [State.bitsLeft_pastBits_one h1]; omega
    rw [decodeFrom_succ h1, if_neg (by omega), ih (fun k hk hk' => hT k (by omega) (by omega)) (by omega) hl',
      State.pastBits_one_pastBits hl]

/-! ### The fixed distance codes (R96, R142, R144) -/

/-- The fixed codes 0..29 of R96 are those of FD. -/
theorem lookup_fixedDist : ∀ y < 30, Table.fixedDist.lookup (msbFirst 5 y) 1 0 0 = some (BitVec.ofNat 9 y) := by
  decide +kernel

/-- The two codes of 5 bits that FD leaves unassigned. -/
theorem remainder_fixedDist (y : Nat) (hy : y = 30 ∨ y = 31) :
    ∃ cur, Table.fixedDist.remainder (msbFirst 5 y) 1 0 = some cur ∧ 0 ≤ cur := by
  rcases hy with rfl | rfl <;> exact ⟨_, rfl, by decide⟩

/-- FD has no code longer than 5 bits. -/
theorem count_fixedDist_eq_zero (k : Nat) (h : 6 ≤ k) (hk : k < 16) : Table.fixedDist.count k = 0 := by
  interval_cases k <;> rfl

/-- Settles O5: 0..29 are looked up in FD; 30 and 31 leave a remainder after 5 bits, and FD has no longer code. -/
theorem fixedDistanceCodesDecode : Obligations.FixedDistanceCodesDecode := by
  intro s
  refine ⟨fun y hy hs hl => ?_, fun y hy hs hl => ?_⟩
  · have h := decodeSymbol_of_lookup (by simp) hs (by simpa using hl) (lookup_fixedDist y (by omega))
    rwa [length_msbFirst] at h
  · obtain ⟨cur, hr, hcur⟩ := remainder_fixedDist y hy
    have hlen := length_msbFirst 5 y
    obtain ⟨sum, h⟩ := decodeFrom_of_remainder (sum := 0) hs (by omega) hr 10
    have hleft : 10 ≤ (s.pastBits 5).bitsLeft := by rw [State.bitsLeft_pastBits (by omega)]; omega
    rw [hlen] at h
    calc decodeSymbol Table.fixedDist s
        = decodeFrom Table.fixedDist 10 6 cur sum (s.pastBits 5) := h
      _ = .stop .huffmanNoSymbol ((s.pastBits 5).pastBits 10) :=
          decodeFrom_of_no_longer_code count_fixedDist_eq_zero hcur hleft
      _ = .stop .huffmanNoSymbol (s.pastBits 15) := by rw [State.pastBits_pastBits hl]

end Sys2Proof.Machine
end

section
/-! PROOFS. The bit reader (40_bit_reader.md): READ_BYTE at the cursor, and the consumption law of R126. An answer of
READ_BITS or DECODE leaves the state past the bits it took, so the law is one fact about `State.pastBits`; which bits
DECODE takes is read off the runs of `T.counts`, and against a table of BUILD a run holds the symbols of one length. -/
namespace Sys2Proof.Machine

/-! ### READ_BYTE (R120) -/

/-- Settles O8: both branches are READ_BYTE's own, and an input byte is the host byte at IN_BASE plus its offset. -/
theorem readByteReadsTheByteAtInPos : Obligations.ReadByteReadsTheByteAtInPos :=
  fun _ => ⟨fun h => if_pos h, fun h => if_neg h⟩

/-! ### The consumption law (R126) -/

theorem State.inPos_pastBits {s : State} {n : Nat} (hn : n ≤ s.bitsLeft) :
    (s.pastBits n).inPos.toNat = s.inPos.toNat + (n - s.bitcnt.toNat + 7) / 8 := by
  have hlen := s.inLen.isLt
  simp only [State.bitsLeft, State.bytesLeft] at hn
  unfold State.pastBits
  split
  · dsimp only; omega
  · simp only [BitVec.toNat_add, BitVec.toNat_ofNat]; omega

theorem State.bitcnt_pastBits {s : State} (hc : s.bitcnt.toNat ≤ 7) (n : Nat) :
    (s.pastBits n).bitcnt.toNat = (s.bitcnt.toNat + 7 * n) % 8 := by
  unfold State.pastBits
  split
  · simp only [BitVec.toNat_sub, BitVec.toNat_ofNat]; omega
  · simp only [BitVec.toNat_ofNat]; omega

theorem State.sameButCursor_pastBits (s : State) (n : Nat) : s.SameButCursor (s.pastBits n) := by
  unfold State.pastBits
  split <;> rfl

/-- Consuming `n` bits: bytes are loaded only for the bits `bitbuf` does not hold, and nothing but the bit cursor
moves. -/
theorem State.pastBits_consumes {s : State} {n : Nat} (hc : s.bitcnt.toNat ≤ 7) (hn : n ≤ s.bitsLeft) :
    (s.pastBits n).inPos.toNat = s.inPos.toNat + (n - s.bitcnt.toNat + 7) / 8 ∧
      (s.pastBits n).bitcnt.toNat = (s.bitcnt.toNat + 7 * n) % 8 ∧ s.SameButCursor (s.pastBits n) :=
  ⟨State.inPos_pastBits hn, State.bitcnt_pastBits hc n, s.sameButCursor_pastBits n⟩

/-- READ_BITS answers only where the input holds the bits, and leaves the state past them. -/
theorem readBits_ok {n : Nat} {s t : State} {v : BitVec 16} (h : readBits n s = .ok v t) :
    n ≤ s.bitsLeft ∧ t = s.pastBits n := by
  by_cases hn : n ≤ s.bitsLeft
  · rw [readBits_eq hn] at h
    cases h
    exact ⟨hn, rfl⟩
  · obtain ⟨u, hu, -⟩ := readBits_stop (Nat.lt_of_not_le hn)
    cases hu.symm.trans h

/-! ### What an answer of DECODE is (R141) -/

/-- The symbols `T` counts at the `k` code lengths from `L` on. -/
def Table.countFrom (T : Table) (L k : Nat) : Nat := ((List.range' L k).map T.count).sum

@[simp] theorem Table.countFrom_zero (T : Table) (L : Nat) : T.countFrom L 0 = 0 := rfl

theorem Table.countFrom_succ (T : Table) (L k : Nat) :
    T.countFrom L (k + 1) = T.count L + T.countFrom (L + 1) k := by
  simp [Table.countFrom, List.range'_succ]

/-- DECODE's loop answers after `k + 1` bits with a symbol of the `k`-th run it reaches: with a remainder that was not
negative, the index lies past the shorter codes' symbols, and the first negative remainder puts it before the next
run. -/
theorem decodeFrom_ok {T : Table} {n L sum : Nat} {cur : Int} {s t : State} {y : Sym} (hcur : 0 ≤ cur)
    (h : decodeFrom T n L cur sum s = .ok y t) :
    ∃ k i, k < n ∧ k + 1 ≤ s.bitsLeft ∧ t = s.pastBits (k + 1) ∧ y = T.symbol i ∧
      sum + T.countFrom L k ≤ i ∧ i < sum + T.countFrom L (k + 1) := by
  induction n generalizing L cur sum s with
  | zero => cases h
  | succ n ih =>
    have hbit : 1 ≤ s.bitsLeft := by
      refine Nat.one_le_iff_ne_zero.2 fun h0 => ?_
      rw [decodeFrom, readBit_stop h0, Res.bind_stop] at h
      cases h
    rw [decodeFrom_succ hbit] at h
    split at h
    case isTrue hneg =>
      cases h
      refine ⟨0, _, n.succ_pos, hbit, rfl, rfl, ?_, ?_⟩
      · rw [Table.countFrom_zero]; omega
      · rw [Table.countFrom_succ, Table.countFrom_zero]; omega
    case isFalse hpos =>
      obtain ⟨k, i, hk, hleft, ht, hy, hlo, hhi⟩ := ih (Int.not_lt.1 hpos) h
      rw [State.bitsLeft_pastBits_one hbit] at hleft
      refine ⟨k + 1, i, by omega, by omega, ?_, hy, ?_, ?_⟩
      · rw [ht, State.pastBits_one_pastBits (by omega)]
      · rw [Table.countFrom_succ]; omega
      · rw [Table.countFrom_succ]; omega

/-- DECODE answers after `m + 1` bits, at most 15, with a symbol of the run of `T.counts[m + 1]` places in
`T.symbols`. -/
theorem decodeSymbol_ok {T : Table} {s t : State} {y : Sym} (h : decodeSymbol T s = .ok y t) :
    ∃ m i, m < 15 ∧ m + 1 ≤ s.bitsLeft ∧ t = s.pastBits (m + 1) ∧ y = T.symbol i ∧
      T.countFrom 1 m ≤ i ∧ i < T.countFrom 1 (m + 1) := by
  simpa using decodeFrom_ok le_rfl h

/-! ### The runs of a table of BUILD (R140) -/

theorem countLen_cons (l : BitVec 4) (ls : List (BitVec 4)) (L : Nat) :
    countLen (l :: ls) L = countLen ls L + if l.toNat = L then 1 else 0 := by
  simp [countLen, List.countP_cons]

theorem length_symbolsOf (first : Nat) (lens : List (BitVec 4)) (L : Nat) :
    (symbolsOf first lens L).length = countLen lens L := by
  induction lens generalizing first with
  | nil => rfl
  | cons l ls ih =>
    rw [symbolsOf, countLen_cons]
    split
    · rw [List.length_cons, ih]
    · exact ih _

/-- The symbols BUILD lists for a length are the positions of that length in the list. -/
theorem mem_symbolsOf {first : Nat} {lens : List (BitVec 4)} {L : Nat} {y : Sym} :
    y ∈ symbolsOf first lens L ↔
      ∃ k, k < lens.length ∧ (lens.getD k 0).toNat = L ∧ y = BitVec.ofNat 9 (first + k) := by
  induction lens generalizing first with
  | nil => simp [symbolsOf]
  | cons l ls ih =>
    have hshift (k : Nat) : first + 1 + k = first + (k + 1) := by omega
    rw [symbolsOf, ← Nat.or_exists_add_one]
    split
    case isTrue hl => simp [hl, ih, hshift]
    case isFalse hl => simp [hl, ih, hshift]

theorem count_build {lens : List (BitVec 4)} {L : Nat} (hlen : lens.length ≤ 288) (h1 : 1 ≤ L) (h15 : L ≤ 15) :
    (build lens).count L = countLen lens L := by
  have hle : countLen lens L ≤ lens.length := List.countP_le_length
  have hmod : countLen lens L % 512 = countLen lens L := Nat.mod_eq_of_lt (by omega)
  have hlt : L < 16 := by omega
  have hne : L ≠ 0 := by omega
  simp [Table.count, build, hlt, hne, hmod]

/-- The first `n` runs of BUILD are as long as its counts say. -/
theorem countFrom_build {lens : List (BitVec 4)} {n : Nat} (hlen : lens.length ≤ 288) (h15 : n ≤ 15) :
    (build lens).countFrom 1 n = ((List.range' 1 n).flatMap (symbolsOf 0 lens)).length := by
  rw [List.length_flatMap, Table.countFrom]
  refine congrArg List.sum (List.map_congr_left fun L hL => ?_)
  obtain ⟨h1, hn⟩ := List.mem_range'_1.1 hL
  rw [count_build hlen h1 (by omega), length_symbolsOf]

/-- The symbols of BUILD, cut before and after the run of length `m + 1`. -/
theorem symbols_build_eq_append (lens : List (BitVec 4)) {m : Nat} (h : m < 15) :
    (build lens).symbols = (List.range' 1 m).flatMap (symbolsOf 0 lens) ++
      (symbolsOf 0 lens (m + 1) ++ (List.range' (m + 2) (14 - m)).flatMap (symbolsOf 0 lens)) := by
  have hrange : List.range' 1 15 = List.range' 1 m ++ (m + 1) :: List.range' (m + 2) (14 - m) :=
    calc List.range' 1 15 = List.range' 1 m ++ List.range' (1 + m) (14 - m + 1) := by
          rw [List.range'_append_1, show m + (14 - m + 1) = 15 by omega]
      _ = List.range' 1 m ++ (m + 1) :: List.range' (m + 2) (14 - m) := by rw [List.range'_succ, Nat.add_comm 1]
  rw [build, hrange, List.flatMap_append, List.flatMap_cons]

/-- A place in the run of length `m + 1` holds a symbol of that length. -/
theorem symbol_build_mem_symbolsOf {lens : List (BitVec 4)} {m i : Nat} (hlen : lens.length ≤ 288) (h : m < 15)
    (hlo : (build lens).countFrom 1 m ≤ i) (hhi : i < (build lens).countFrom 1 (m + 1)) :
    (build lens).symbol i ∈ symbolsOf 0 lens (m + 1) := by
  rw [countFrom_build hlen (by omega)] at hlo hhi
  rw [List.range'_1_concat, List.flatMap_append, List.length_append, List.flatMap_singleton, Nat.add_comm 1] at hhi
  rw [Table.symbol, symbols_build_eq_append lens h, List.getElem?_append_right hlo,
    List.getElem?_append_left (by omega), List.getElem?_eq_getElem (by omega), Option.getD_some]
  exact List.getElem_mem _

/-- The list gives a symbol in the run of length `m + 1` that length. -/
theorem length_of_symbol_build {lens : List (BitVec 4)} {m i : Nat} (hlen : lens.length ≤ 288) (h : m < 15)
    (hlo : (build lens).countFrom 1 m ≤ i) (hhi : i < (build lens).countFrom 1 (m + 1)) :
    (lens.getD ((build lens).symbol i).toNat 0).toNat = m + 1 := by
  obtain ⟨k, hk, hL, hy⟩ := mem_symbolsOf.1 (symbol_build_mem_symbolsOf hlen h hlo hhi)
  rw [hy, Nat.zero_add, BitVec.toNat_ofNat, Nat.mod_eq_of_lt (by omega), hL]

/-- Settles O9: the answers leave the state past the bits they take, and a run of BUILD's symbols holds the symbols of
its length. -/
theorem bitReadsConsumeByTheLaw : Obligations.BitReadsConsumeByTheLaw := by
  refine fun s hc => ⟨fun n v t h => ?_, fun T y t h => ?_, fun lens y t n hlen h hn => ?_⟩
  · obtain ⟨hleft, rfl⟩ := readBits_ok h
    exact State.pastBits_consumes hc hleft
  · obtain ⟨m, i, hm, hleft, rfl, hy, hlo, hhi⟩ := decodeSymbol_ok h
    exact ⟨m + 1, i, m.succ_pos, hm, hy, hlo, hhi, State.pastBits_consumes hc hleft⟩
  · obtain ⟨m, i, hm, hleft, rfl, rfl, hlo, hhi⟩ := decodeSymbol_ok h
    rw [length_of_symbol_build hlen hm hlo hhi] at hn
    subst hn
    exact ⟨m.succ_pos, State.pastBits_consumes hc hleft⟩

end Sys2Proof.Machine
end

section
/-! PROOFS. BUILD and DECODE (41_huffman.md): what BUILD lists and in which order, the two ways DECODE can stop, the
symbol a canonical code stands for, and that a session never fetches a value outside its alphabet. -/
namespace Sys2Proof.Machine

/-! ### The counts of BUILD (R140) -/

@[simp] theorem count_build_zero (lens : List (BitVec 4)) : (build lens).count 0 = 0 := by
  simp [Table.count, build]

theorem toNat_mem_lengths {l : BitVec 4} : l.toNat ∈ List.range' 1 15 ↔ l.toNat ≠ 0 := by
  have := l.isLt
  rw [List.mem_range'_1]
  omega

/-- Summed over the lengths or over the symbols: a weight of the code length, over all used symbols. -/
theorem sum_countLen_mul (lens : List (BitVec 4)) (w : Nat → Nat) :
    ((List.range' 1 15).map fun L => countLen lens L * w L).sum =
      (lens.map fun l => if l.toNat = 0 then 0 else w l.toNat).sum := by
  induction lens with
  | nil => simp [countLen]
  | cons l ls ih =>
    have hone : ((List.range' 1 15).map fun L => (if l.toNat = L then 1 else 0) * w L).sum =
        if l.toNat = 0 then 0 else w l.toNat := by
      rw [List.sum_map_eq_nsmul_single l.toNat _ fun L hL _ => by rw [if_neg hL.symm, Nat.zero_mul],
        (List.nodup_range' (step := 1)).count, if_pos rfl, if_congr toNat_mem_lengths rfl rfl]
      simp
    simp only [countLen_cons, Nat.add_mul, List.sum_map_add, List.map_cons, List.sum_cons]
    rw [ih, hone, Nat.add_comm]

/-- The counts of BUILD add up to the number of used symbols. -/
theorem sum_countLen (lens : List (BitVec 4)) :
    ((List.range' 1 15).map (countLen lens)).sum = lens.countP fun l => l ≠ 0 := by
  have hused : (lens.map fun l => if l.toNat = 0 then 0 else 1).sum = lens.countP fun l => l ≠ 0 := by
    induction lens with
    | nil => rfl
    | cons l ls ih =>
      rw [List.map_cons, List.sum_cons, ih, List.countP_cons, Nat.add_comm]
      simp [← BitVec.toNat_inj]
  simpa [hused] using sum_countLen_mul lens fun _ => 1

theorem length_symbols_build (lens : List (BitVec 4)) :
    (build lens).symbols.length = lens.countP fun l => l ≠ 0 := by
  rw [← sum_countLen, build, List.length_flatMap]
  exact congrArg List.sum (List.map_congr_left fun L _ => length_symbolsOf 0 lens L)

/-- `countFrom 1 15` is the sum of all the counts but that of length 0. -/
theorem Table.sum_counts (T : Table) : ((List.range 16).map T.count).sum = T.count 0 + T.countFrom 1 15 := by
  rw [List.range_eq_range']
  exact T.countFrom_succ 0 15

/-! ### The symbols of BUILD and their order (R29, R140) -/

theorem mem_symbolsOf_iff {lens : List (BitVec 4)} {L : Nat} {y : Sym} (hlen : lens.length ≤ 288) :
    y ∈ symbolsOf 0 lens L ↔ y.toNat < lens.length ∧ (lens.getD y.toNat 0).toNat = L := by
  rw [mem_symbolsOf]
  constructor
  · rintro ⟨k, hk, hL, rfl⟩
    rw [Nat.zero_add, BitVec.toNat_ofNat, Nat.mod_eq_of_lt (by omega)]
    exact ⟨hk, hL⟩
  · rintro ⟨hy, hL⟩
    exact ⟨y.toNat, hy, hL, by rw [Nat.zero_add, BitVec.ofNat_toNat, BitVec.setWidth_eq]⟩

theorem mem_symbols_build {lens : List (BitVec 4)} {y : Sym} (hlen : lens.length ≤ 288) :
    y ∈ (build lens).symbols ↔ y.toNat < lens.length ∧ lens.getD y.toNat 0 ≠ 0 := by
  have hused : lens.getD y.toNat 0 ≠ 0 ↔ (lens.getD y.toNat 0).toNat ∈ List.range' 1 15 :=
    BitVec.toNat_ne_iff_ne.symm.trans toNat_mem_lengths.symm
  rw [build, List.mem_flatMap, hused]
  constructor
  · rintro ⟨L, hL, hy⟩
    obtain ⟨hlt, rfl⟩ := (mem_symbolsOf_iff hlen).1 hy
    exact ⟨hlt, hL⟩
  · rintro ⟨hlt, hL⟩
    exact ⟨_, hL, (mem_symbolsOf_iff hlen).2 ⟨hlt, rfl⟩⟩

/-- The symbols of one length are listed in symbol order. -/
theorem pairwise_symbolsOf {first : Nat} {lens : List (BitVec 4)} (L : Nat) (h : first + lens.length ≤ 2 ^ 9) :
    (symbolsOf first lens L).Pairwise (· < ·) := by
  induction lens generalizing first with
  | nil => exact .nil
  | cons l ls ih =>
    rw [List.length_cons] at h
    have hrest := ih (first := first + 1) (by omega)
    rw [symbolsOf]
    split
    · refine .cons (fun y hy => ?_) hrest
      obtain ⟨k, hk, -, rfl⟩ := mem_symbolsOf.1 hy
      rw [BitVec.lt_def, BitVec.toNat_ofNat, BitVec.toNat_ofNat, Nat.mod_eq_of_lt, Nat.mod_eq_of_lt] <;> omega
    · exact hrest

/-- The order of R29: by code length, then by symbol. -/
def CodeOrder (lens : List (BitVec 4)) (a b : Sym) : Prop :=
  lens.getD a.toNat 0 < lens.getD b.toNat 0 ∨ (lens.getD a.toNat 0 = lens.getD b.toNat 0 ∧ a < b)

theorem pairwise_symbols_build {lens : List (BitVec 4)} (hlen : lens.length ≤ 288) :
    (build lens).symbols.Pairwise (CodeOrder lens) := by
  rw [build, List.pairwise_flatMap]
  constructor
  · intro L _
    refine (pairwise_symbolsOf L (by omega)).imp_of_mem fun ha hb hab => .inr ⟨BitVec.eq_of_toNat_eq ?_, hab⟩
    rw [((mem_symbolsOf_iff hlen).1 ha).2, ((mem_symbolsOf_iff hlen).1 hb).2]
  · refine (List.pairwise_lt_range' 1).imp fun {L M} hLM a ha b hb => .inl ?_
    rw [BitVec.lt_def, ((mem_symbolsOf_iff hlen).1 ha).2, ((mem_symbolsOf_iff hlen).1 hb).2]
    exact hLM

/-- Settles O10: BUILD lists the runs of `symbolsOf`, each as long as its count, one length after the other. -/
theorem buildSortsTheUsedSymbols : Obligations.BuildSortsTheUsedSymbols := by
  intro lens hlen
  refine ⟨count_build_zero lens, fun L h1 h15 => count_build hlen h1 h15, ?_, length_symbols_build lens,
    fun y => mem_symbols_build hlen, pairwise_symbols_build hlen⟩
  rw [Table.sum_counts, count_build_zero, Nat.zero_add, countFrom_build hlen le_rfl]
  rfl

/-! ### Where DECODE stops (R141) -/

/-- DECODE's loop stops with no bit left, or with all its bits read. -/
theorem decodeFrom_stop {T : Table} {n L sum : Nat} {cur : Int} {s t : State} {r : Stop}
    (h : decodeFrom T n L cur sum s = .stop r t) :
    (s.bitsLeft < n ∧ r = .truncatedIn ∧ t.bitsLeft = 0) ∨
      (n ≤ s.bitsLeft ∧ r = .huffmanNoSymbol ∧ t = s.pastBits n) := by
  induction n generalizing L cur sum s with
  | zero =>
    cases h
    exact .inr ⟨Nat.zero_le _, rfl, (State.pastBits_zero _).symm⟩
  | succ n ih =>
    rcases Nat.eq_zero_or_pos s.bitsLeft with h0 | hbit
    · rw [decodeFrom, readBit_stop h0, Res.bind_stop] at h
      cases h
      exact .inl ⟨h0 ▸ n.succ_pos, rfl, h0⟩
    · rw [decodeFrom_succ hbit] at h
      split at h
      · cases h
      · have hleft := State.bitsLeft_pastBits_one hbit
        rcases ih h with ⟨hlt, hr, ht⟩ | ⟨hle, hr, ht⟩
        · exact .inl ⟨by omega, hr, ht⟩
        · exact .inr ⟨by omega, hr, by rw [ht, State.pastBits_one_pastBits (by omega)]⟩

/-! ### The symbol DECODE answers (R29, R141) -/

theorem Table.countFrom_mono (T : Table) (L : Nat) {m n : Nat} (h : m ≤ n) : T.countFrom L m ≤ T.countFrom L n := by
  obtain ⟨k, rfl⟩ := Nat.exists_eq_add_of_le h
  rw [Table.countFrom, Table.countFrom, ← List.range'_append_1, List.map_append, List.sum_append]
  exact Nat.le_add_right _ _

theorem Table.symbol_mem {T : Table} {i : Nat} (h : i < T.symbols.length) : T.symbol i ∈ T.symbols := by
  rw [Table.symbol, List.getElem?_eq_getElem h, Option.getD_some]
  exact List.getElem_mem h

theorem Table.Ok.countFrom_eq {T : Table} {m : Nat} (hT : T.Ok m) : T.countFrom 1 15 = T.symbols.length := by
  rw [← hT.total, Table.sum_counts, hT.zero, Nat.zero_add]

/-- A symbol DECODE answers is one of the table's, after at most 15 bits. -/
theorem Table.Ok.decodeSymbol_ok {T : Table} {m : Nat} {s t : State} {y : Sym} (hT : T.Ok m)
    (h : decodeSymbol T s = .ok y t) :
    ∃ n, y ∈ T.symbols ∧ 1 ≤ n ∧ n ≤ 15 ∧ n ≤ s.bitsLeft ∧ t = s.pastBits n := by
  obtain ⟨k, i, hk, hleft, ht, rfl, -, hi⟩ := Machine.decodeSymbol_ok h
  have hlt : i < T.symbols.length := hT.countFrom_eq ▸ hi.trans_le (T.countFrom_mono 1 hk)
  exact ⟨k + 1, Table.symbol_mem hlt, k.succ_pos, hk, hleft, ht⟩

/-- Settles O11: an answer is in a run of the table's counts, and the runs make up its symbols; a stop is that of the
loop. -/
theorem decodeStaysInsideTheTable : Obligations.DecodeStaysInsideTheTable := by
  intro T m s hT
  cases h : decodeSymbol T s with
  | ok y t =>
    obtain ⟨n, hy, h1, h15, hleft, rfl⟩ := hT.decodeSymbol_ok h
    exact .inl ⟨y, n, hy, h1, h15, hleft, rfl⟩
  | stop r t =>
    rcases decodeFrom_stop h with ⟨hlt, rfl, ht⟩ | ⟨hle, rfl, rfl⟩
    · exact .inr (.inl ⟨hlt, t, rfl, ht⟩)
    · exact .inr (.inr ⟨hle, rfl⟩)

/-! ### Canonical codes (R143) -/

/-- How many words of `L` bits start with a code of at most `L` bits (R143): the canonical codes of length `L` are the
words from twice the value of the length before on, and end below this one. -/
def Table.codeSpace (T : Table) : (L : Nat) → Nat
  | 0 => 0
  | L + 1 => 2 * T.codeSpace L + T.count (L + 1)

theorem Table.codeSpace_succ (T : Table) (L : Nat) : T.codeSpace (L + 1) = 2 * T.codeSpace L + T.count (L + 1) := rfl

/-- The codes of length `L` are all below those longer by `n`. -/
theorem Table.codeSpace_mul_le (T : Table) (L n : Nat) : T.codeSpace L * 2 ^ n ≤ T.codeSpace (L + n) := by
  induction n with
  | zero => simp
  | succ n ih =>
    calc T.codeSpace L * 2 ^ (n + 1) = 2 * (T.codeSpace L * 2 ^ n) := by ring
      _ ≤ 2 * T.codeSpace (L + n) := Nat.mul_le_mul_left 2 ih
      _ ≤ T.codeSpace (L + (n + 1)) := Nat.le_add_right _ _

theorem two_mul_div_add_testBit (c n : Nat) : 2 * (c / 2 ^ (n + 1)) + (c.testBit n).toNat = c / 2 ^ n := by
  rw [Nat.toNat_testBit, Nat.pow_succ, ← Nat.div_div_eq_div_mul]
  omega

/-- A code of length `L + n + 1` whose first `L` bits have been read: the remainder of DECODE's loop is how far those
bits are past the codes of length `L`. It is first negative at the code's last bit, and there the symbol stands in the
run of the code's length at the code's place among the codes of that length. -/
theorem Table.lookup_msbFirst {T : Table} {n L c sum : Nat} (hlo : 2 * T.codeSpace (L + n) ≤ c)
    (hhi : c < T.codeSpace (L + n + 1)) :
    T.lookup (msbFirst (n + 1) c) (L + 1) ((c / 2 ^ (n + 1) : Nat) - (T.codeSpace L : Nat)) sum =
      T.symbols[sum + T.countFrom (L + 1) n + (c - 2 * T.codeSpace (L + n))]? := by
  induction n generalizing L sum with
  | zero =>
    have hbit := two_mul_div_add_testBit c 0
    rw [Nat.pow_zero, Nat.div_one] at hbit
    simp only [Nat.add_zero, Nat.zero_add, msbFirst, Table.lookup, Table.countFrom_zero, if_true,
      Table.codeSpace_succ] at hlo hhi hbit ⊢
    rw [if_pos (by omega)]
    congr 1
    omega
  | succ n ih =>
    rw [show L + (n + 1) = L + 1 + n by omega] at hlo hhi ⊢
    have hcur : 2 * ((c / 2 ^ (n + 1 + 1) : Nat) - (T.codeSpace L : Nat) : Int) + (c.testBit (n + 1)).toNat -
        T.count (L + 1) = (c / 2 ^ (n + 1) : Nat) - (T.codeSpace (L + 1) : Nat) := by
      have hbit := two_mul_div_add_testBit c (n + 1)
      rw [Table.codeSpace_succ]
      omega
    have hle : T.codeSpace (L + 1) ≤ c / 2 ^ (n + 1) := by
      rw [Nat.le_div_iff_mul_le (by positivity)]
      calc T.codeSpace (L + 1) * 2 ^ (n + 1) = 2 * (T.codeSpace (L + 1) * 2 ^ n) := by ring
        _ ≤ 2 * T.codeSpace (L + 1 + n) := Nat.mul_le_mul_left 2 (T.codeSpace_mul_le (L + 1) n)
        _ ≤ c := hlo
    rw [msbFirst, Table.lookup]
    simp only [hcur]
    rw [if_neg (by omega), ih hlo hhi, T.countFrom_succ, Nat.add_assoc sum]

/-! ### Canonical codes of BUILD's lengths (R140, R143) -/

theorem firstCode_eq {lens : List (BitVec 4)} {m : Nat} (hlen : lens.length ≤ 288) (h : m < 15) :
    firstCode lens (m + 1) = 2 * (build lens).codeSpace m := by
  induction m with
  | zero => rfl
  | succ m ih =>
    rw [firstCode, if_neg m.succ_ne_zero, ih (by omega), Table.codeSpace_succ, count_build hlen (by omega) (by omega),
      Nat.mul_comm]

/-- The words of 15 bits that start with a code of at most `L` bits. -/
theorem codeSpace_mul_eq {lens : List (BitVec 4)} {L : Nat} (hlen : lens.length ≤ 288) (h : L ≤ 15) :
    (build lens).codeSpace L * 2 ^ (15 - L) =
      ((List.range' 1 L).map fun k => countLen lens k * 2 ^ (15 - k)).sum := by
  induction L with
  | zero => simp [Table.codeSpace]
  | succ L ih =>
    have hpow : 2 ^ (15 - L) = 2 * 2 ^ (15 - (L + 1)) := by rw [← Nat.pow_succ']; congr 1; omega
    have hih := ih (by omega)
    rw [hpow] at hih
    rw [List.range'_1_concat, List.map_append, List.sum_append, ← hih, Table.codeSpace_succ,
      count_build hlen (by omega) h, Nat.add_comm 1 L, List.map_singleton, List.sum_singleton]
    ring

/-- Kraft's inequality leaves the codes of each length room. -/
theorem codeSpace_le_of_kraft {lens : List (BitVec 4)} {L : Nat} (hlen : lens.length ≤ 288) (hk : Kraft lens)
    (h : L ≤ 15) : (build lens).codeSpace L ≤ 2 ^ L := by
  have hsum : (build lens).codeSpace L * 2 ^ (15 - L) ≤ 2 ^ L * 2 ^ (15 - L) :=
    calc (build lens).codeSpace L * 2 ^ (15 - L)
        = ((List.range' 1 L).map fun k => countLen lens k * 2 ^ (15 - k)).sum := codeSpace_mul_eq hlen h
      _ ≤ ((List.range' 1 15).map fun k => countLen lens k * 2 ^ (15 - k)).sum := by
          obtain ⟨n, hn⟩ := Nat.exists_eq_add_of_le h
          rw [hn, ← List.range'_append_1, List.map_append, List.sum_append]
          exact Nat.le_add_right _ _
      _ ≤ 2 ^ 15 := (sum_countLen_mul lens fun k => 2 ^ (15 - k)).trans_le hk
      _ = 2 ^ L * 2 ^ (15 - L) := by rw [← Nat.pow_add]; congr 1; omega
  exact Nat.le_of_mul_le_mul_right hsum (by positivity)

/-- Among the symbols of its length a symbol's place is the number of those before it. -/
theorem getElem?_symbolsOf {first y L : Nat} {lens : List (BitVec 4)} (hy : y < lens.length)
    (hL : (lens.getD y 0).toNat = L) :
    (symbolsOf first lens L)[countLen (lens.take y) L]? = some (BitVec.ofNat 9 (first + y)) := by
  induction lens generalizing first y with
  | nil => simp at hy
  | cons l ls ih =>
    cases y with
    | zero =>
      rw [List.getD_cons_zero] at hL
      rw [symbolsOf, if_pos hL]
      rfl
    | succ y =>
      have hrest := ih (first := first + 1) (y := y) (by simpa using hy) (by simpa using hL)
      rw [show first + (y + 1) = first + 1 + y by omega, symbolsOf, List.take_succ_cons, countLen_cons]
      split
      · rw [List.getElem?_cons_succ, hrest]
      · exact hrest

theorem countLen_take_lt {y L : Nat} {lens : List (BitVec 4)} (hy : y < lens.length)
    (hL : (lens.getD y 0).toNat = L) : countLen (lens.take y) L < countLen lens L := by
  rw [← length_symbolsOf 0 lens L]
  exact (List.getElem?_eq_some_iff.1 (getElem?_symbolsOf hy hL)).1

/-- The run of length `m + 1` begins past the shorter codes' symbols. -/
theorem getElem?_symbols_build {lens : List (BitVec 4)} {m k : Nat} (hlen : lens.length ≤ 288) (h : m < 15)
    (hk : k < countLen lens (m + 1)) :
    (build lens).symbols[(build lens).countFrom 1 m + k]? = (symbolsOf 0 lens (m + 1))[k]? := by
  rw [countFrom_build hlen (by omega), symbols_build_eq_append lens h, List.getElem?_append_right (by omega),
    Nat.add_sub_cancel_left, List.getElem?_append_left (by rwa [length_symbolsOf])]

/-- The canonical code of a symbol is looked up to that symbol. -/
theorem lookup_canonicalCode {lens : List (BitVec 4)} {y : Nat} (hlen : lens.length ≤ 288) (hk : Kraft lens)
    (hy : y < lens.length) (hused : lens.getD y 0 ≠ 0) :
    (build lens).lookup (msbFirst (lens.getD y 0).toNat (canonicalCode lens y)) 1 0 0 = some (BitVec.ofNat 9 y) := by
  have h15 := (lens.getD y 0).isLt
  obtain ⟨m, hm⟩ : ∃ m, (lens.getD y 0).toNat = m + 1 :=
    Nat.exists_eq_succ_of_ne_zero fun h0 => hused (BitVec.eq_of_toNat_eq h0)
  have hcode : canonicalCode lens y = 2 * (build lens).codeSpace m + countLen (lens.take y) (m + 1) := by
    rw [canonicalCode, hm, firstCode_eq hlen (by omega)]
  have hplace := countLen_take_lt hy hm
  have hhi : canonicalCode lens y < (build lens).codeSpace (m + 1) := by
    rw [hcode, Table.codeSpace_succ, count_build hlen (by omega) (by omega)]
    omega
  have hroom : canonicalCode lens y / 2 ^ (m + 1) = 0 :=
    Nat.div_eq_of_lt (hhi.trans_le (codeSpace_le_of_kraft hlen hk (by omega)))
  have hlook := Table.lookup_msbFirst (T := build lens) (n := m) (L := 0) (c := canonicalCode lens y) (sum := 0)
    (by rw [Nat.zero_add]; omega) (by rwa [Nat.zero_add])
  simp only [hroom, Table.codeSpace, Nat.zero_add] at hlook
  calc (build lens).lookup (msbFirst (lens.getD y 0).toNat (canonicalCode lens y)) 1 0 0
      = (build lens).symbols[(build lens).countFrom 1 m + (canonicalCode lens y - 2 * (build lens).codeSpace m)]? := by
        rw [hm]; exact hlook
    _ = (build lens).symbols[(build lens).countFrom 1 m + countLen (lens.take y) (m + 1)]? := by
        rw [hcode, Nat.add_sub_cancel_left]
    _ = (symbolsOf 0 lens (m + 1))[countLen (lens.take y) (m + 1)]? := getElem?_symbols_build hlen (by omega) hplace
    _ = some (BitVec.ofNat 9 y) := by rw [getElem?_symbolsOf hy hm, Nat.zero_add]

/-- Settles O6: DECODE of a code that stands at the cursor is a look-up of the code. -/
theorem canonicalCodesDecodeToTheirSymbols : Obligations.CanonicalCodesDecodeToTheirSymbols := by
  intro lens y s hlen hk hy hused hs hl
  have h15 := (lens.getD y 0).isLt
  have h := decodeSymbol_of_lookup (by rw [length_msbFirst]; omega) hs (by rwa [length_msbFirst])
    (lookup_canonicalCode hlen hk hy hused)
  rwa [length_msbFirst] at h

/-! ### No step is a fault of the model (R141, R145, R199, R205) -/

/-- With a built table over an alphabet the fetch of a symbol answers one of the alphabet. -/
theorem fetchSymbol_lt {T : Table} {m : Nat} {s t : State} {y : Sym} (hT : T.Ok m)
    (h : fetchSymbol T s = .ok y t) : y.toNat < m := by
  obtain ⟨u, hu, -⟩ := fetchSymbol_eq_ok.1 h
  obtain ⟨-, hy, -⟩ := hT.decodeSymbol_ok hu
  exact hT.inRange y hy

/-- A slot that accepts every value the answer can have gives an element. -/
theorem AcceptsBelow.no_error {slot : Slot} {w bound : Nat} (ha : AcceptsBelow slot bound) {x : Res (BitVec w)}
    (hx : ∀ y t, x = .ok y t → y.toNat < bound) {e : DecodeError} {t : State} :
    (x.bind fun y s => .ok (decode slot y.toNat) s) ≠ .ok (.error e) t := by
  intro h
  obtain ⟨y, u, hy, hd⟩ := Res.bind_eq_ok.1 h
  obtain ⟨i, hi⟩ := (ha.ok_iff _).2 (hx y u hy)
  rw [hi] at hd
  cases hd

theorem fetch_no_error {s t : State} {e : DecodeError} (hs : s.ControlOk) (hb : s.state = .busy) :
    fetch s ≠ .ok (.error e) t := by
  have decided (h : s.slot ∈ decidedSlots) : fetch s ≠ .ok (.error e) t := by
    obtain ⟨i, hi⟩ := decode_of_decidedSlot h 0
    rw [fetch_of_decidedSlot h 0, hi]
    nofun
  cases hslot : s.slot with
  | rest =>
    have hphase := hs.phase hb
    rw [hslot] at hphase
    cases hphase
  | blockHeader =>
    simp only [fetch, hslot]
    exact acceptsBelow_blockHeader.no_error fun y _ _ => y.isLt
  | clSymbol =>
    simp only [fetch, hslot]
    exact acceptsBelow_clSymbol.no_error fun _ _ => fetchSymbol_lt (hs.codeLengthTable hb hslot)
  | litLen =>
    simp only [fetch, hslot]
    exact acceptsBelow_litLen.no_error fun _ _ => fetchSymbol_lt (hs.litTable hb (.inl hslot))
  | dist =>
    simp only [fetch, hslot]
    exact acceptsBelow_dist.no_error fun _ _ => fetchSymbol_lt (hs.distTable hb (.inr hslot))
  | magic | method | flags | skipFixed | extra | name | comment | hcrc | storedLen | dynHdr | cll | trailer =>
    exact decided (by rw [hslot]; decide)

theorem coreStep_no_fault {s : State} (hs : s.ControlOk) (f : Fault) : coreStep s ≠ .fault f := by
  by_cases hb : s.state = .busy
  · cases hf : fetch s with
    | stop r t =>
      rw [coreStep_of_fetch_stop hb hf]
      nofun
    | ok x t =>
      cases x with
      | error e => exact absurd hf (fetch_no_error hs hb)
      | ok i =>
        obtain ⟨u, hu⟩ := exec_next i t
        rw [coreStep_of_fetch_ok hb hf, hu]
        nofun
  · rw [coreStep_of_not_busy hb]
    nofun

theorem State.start_no_fault (s : State) (f : Fault) : s.start ≠ .fault f := by
  unfold State.start
  split_ifs <;> nofun

theorem State.writeReg_no_fault (s : State) (off v : Word) (f : Fault) : s.writeReg off v ≠ .fault f := by
  unfold State.writeReg
  split
  · nofun
  · split
    case h_1 =>
      split
      · exact s.start_no_fault f
      · nofun
    all_goals nofun

/-- A move of the host is served or refused. -/
theorem hostStep_no_fault (m : HostMove) (s : State) (f : Fault) : hostStep m s ≠ .fault f := by
  cases m with
  | idle | powerOn => nofun
  | regRead | memRead | memWrite =>
    simp only [hostStep]
    split_ifs <;> nofun
  | regWrite addr bytes v =>
    simp only [hostStep]
    split_ifs
    · nofun
    · nofun
    · exact s.writeReg_no_fault _ v f

/-- The host's queue is no part of where a session stands. -/
theorem State.ControlOk.withHost {s : State} (hs : s.ControlOk) (rest : List HostMove) :
    State.ControlOk { s with host := rest } :=
  ⟨hs.phase, hs.phaseHeld, hs.codeLengthTable, hs.litTable, hs.distTable, hs.codeLengths, hs.fieldIndex, hs.index,
    hs.matchLen⟩

/-- Settles O56: the fetch of a BUSY core answers an element, an element and a move of the host never fault. -/
theorem noRunReachesAModelFault : Obligations.NoRunReachesAModelFault := by
  intro s hs f
  rcases step_cases s with ⟨-, he⟩ | ⟨rest, -, he⟩ | ⟨m, rest, -, he⟩ <;> rw [he]
  · exact coreStep_no_fault hs f
  · exact coreStep_no_fault (hs.withHost rest) f
  · exact hostStep_no_fault m _ f

end Sys2Proof.Machine
end

section
/-! PROOFS. The ring buffer (42_ring_buffer.md): what EMIT writes and what it leaves, and the window of the bytes
emitted last, which every step keeps. -/
namespace Sys2Proof.Machine

/-! ### EMIT (R160) -/

/-- `emitted` counts the byte up to the size of the ring (R27). -/
theorem State.toNat_emitted_push (s : State) (b : Byte) :
    (s.push b).emitted.toNat = min (s.emitted.toNat + 1) 32768 := by
  have hring : (32768 : BitVec 16).toNat = 32768 := rfl
  rw [State.push_emitted]
  split
  · rename_i hlt
    rw [BitVec.lt_def, hring] at hlt
    rw [BitVec.toNat_add, show (1 : BitVec 16).toNat = 1 from rfl]
    omega
  · rename_i hge
    rw [BitVec.lt_def, hring] at hge
    omega

/-- In the output space too EMIT writes the byte at `out_pos` and no other. -/
theorem State.outByte_push (s : State) (b : Byte) (a : Nat) :
    (s.push b).outByte a = if a = s.outPos.toNat then b else s.outByte a := by
  simp only [State.outByte, State.hostByte_push, State.push_outBase, Nat.add_left_cancel_iff]

/-- Settles O12: with room EMIT ends in `State.push`, and into a full output it stops before any write. -/
theorem emitWritesRingAndOutput : Obligations.EmitWritesRingAndOutput := by
  intro b s
  refine ⟨fun h => ?_, fun h => if_neg h⟩
  have hroom := s.outPos_lt_iff.1 h
  exact ⟨s.push b, emit_eq hroom, rfl, s.toNat_wcur_push b, State.toNat_outPos_push b hroom, s.toNat_emitted_push b,
    s.ringByte_push b, s.hostByte_push b⟩

/-! ### The window (R162) -/

theorem State.windowOk_of_not_busy {s : State} (h : s.state ≠ .busy) : s.WindowOk := fun hb => absurd hb h

/-- EMIT keeps the window: the new byte stands at distance 1, and every other one has moved one position away. The slot
it overwrites stood at distance 32768, which the window no longer holds. -/
theorem State.WindowOk.push {s : State} (hw : s.WindowOk) (hc : s.CursorsOk) (b : Byte) (h : s.outPos < s.outCap) :
    (s.push b).WindowOk := by
  intro hb d hd hde
  have hwcur : s.wcur.toNat < 32768 := s.wcur.isLt
  have hemitted := hc.emitted
  rw [State.toNat_emitted_push] at hde
  rw [State.toNat_wcur_push, State.toNat_outPos_push b (s.outPos_lt_iff.1 h), State.ringByte_push, State.outByte_push]
  rcases Nat.eq_or_lt_of_le hd with rfl | hfar
  · rw [if_pos (by omega), if_pos (by omega)]
  · have hslot : ((s.wcur.toNat + 1) % 32768 + 32768 - d) % 32768 = (s.wcur.toNat + 32768 - (d - 1)) % 32768 := by
      omega
    have hpos : s.outPos.toNat + 1 - d = s.outPos.toNat - (d - 1) := by omega
    rw [if_neg (by omega), if_neg (by omega), hslot, hpos]
    exact hw hb (d - 1) (by omega) (by omega)

/-- The window, with the cursor relations it rests on. -/
def State.CursorsAndWindowOk (s : State) : Prop := s.CursorsOk ∧ s.WindowOk

theorem cursorsAndWindowOk_op (s t : State) (h : s.MicroOp t) (hs : s.CursorsAndWindowOk) : t.CursorsAndWindowOk := by
  obtain ⟨hc, hw⟩ := hs
  refine ⟨cursorsOk_op s t h hc, ?_⟩
  cases h with
  | byte | bits | lens => exact hw
  | emit b h => exact hw.push hc b h
  | control h =>
    rw [h]
    exact hw

theorem cursorsAndWindowOk_keptByElements : KeptByElements State.CursorsAndWindowOk where
  op := cursorsAndWindowOk_op
  stop s r hs := ⟨cursorsOk_keptByElements.stop s r hs.1, State.windowOk_of_not_busy nofun⟩
  succeed s hs := ⟨cursorsOk_keptByElements.succeed s hs.1, State.windowOk_of_not_busy nofun⟩

/-- START empties the window, and while BUSY the host writes none of its bytes. -/
theorem windowOk_hostStep {m : HostMove} {s t : State} (h : hostStep m s = .next t) (hc : s.CursorsOk)
    (hw : s.WindowOk) : t.WindowOk := by
  rcases hostStep_next h with hread | ⟨hb, hreg⟩ | ⟨-, -, -, rfl⟩ | ⟨addr, b, -, rfl⟩ | rfl
  · rw [hread]
    exact hw
  · rw [hreg]
    exact State.windowOk_of_not_busy hb
  · exact fun _ d hd hde => absurd (hd.trans hde) (Nat.not_succ_le_zero 0)
  · intro hb d hd hde
    have hemitted := hc.emitted
    have hle : d ≤ s.emitted.toNat := hde
    have hkept := hostStep_keeps_inputOrEmitted (s := s) (a := s.outBase.toNat + (s.outPos.toNat - d)) hb (hc.outPos hb)
      h (.inr ⟨by omega, by omega⟩)
    exact (hw hb d hd hle).trans hkept.symm
  · exact State.windowOk_of_not_busy nofun

/-- Settles O54: EMIT is the one micro-operation that writes the ring or the output, and the host keeps the window. -/
theorem ringHoldsTheLastOutputBytes : Obligations.RingHoldsTheLastOutputBytes := fun _ _ hc hw h =>
  And.right <| cursorsAndWindowOk_keptByElements.step
    (fun _ _ hs => ⟨⟨hs.1.bitcnt, hs.1.emitted, hs.1.wcur, hs.1.inPos, hs.1.outPos⟩, hs.2⟩)
    (fun m s t h hs => ⟨cursorsOk_hostStep m s t h hs.1, windowOk_hostStep h hs.1 hs.2⟩) h ⟨hc, hw⟩

end Sys2Proof.Machine
end

section
/-! PROOFS. The expander (43_lz77.md): the rows of R92 and R94 as one meaning each, the bytes a match emits, and what
its elements leave unchanged. -/
namespace Sys2Proof.Machine

/-! ### A base and its extra bits (R92, R94) -/

/-- At most 16 extra bits: their value is not cut. -/
theorem readBased_of_le {base n : Nat} {s : State} (hn : n ≤ 16) (h : n ≤ s.bitsLeft) :
    readBased base n s = .ok (base + s.field 0 n) (s.pastBits n) := by
  have hlt : s.field 0 n < 2 ^ 16 := (s.field_lt 0 n).trans_le (Nat.pow_le_pow_right Nat.two_pos hn)
  rw [readBased_eq h, BitVec.toNat_ofNat, Nat.mod_eq_of_lt hlt]

/-- Extra bits the input does not hold. -/
theorem readBased_stop {n : Nat} {s : State} (base : Nat) (h : s.bitsLeft < n) :
    ∃ t, readBased base n s = .stop .truncatedIn t ∧ t.bitsLeft = 0 := by
  obtain ⟨t, ht, h0⟩ := readBits_stop h
  exact ⟨t, by rw [readBased, ht, Res.bind_stop], h0⟩

/-- An element that begins with extra bits the input does not hold is Truncated, every bit consumed (R173, R246). -/
theorem finish_bind_readBased_stop {base n : Nat} {s : State} (f : Nat → State → Res Unit) (h : s.bitsLeft < n) :
    ∃ t, ((readBased base n s).bind f).finish = .next t ∧ t.state = .failed ∧ t.cls = .failure ∧ t.kind = 5 ∧
      t.detail = 0 ∧ t.bitsLeft = 0 := by
  obtain ⟨u, hu, h0⟩ := readBased_stop base h
  exact ⟨u.enterStop .truncatedIn, by rw [hu, Res.bind_stop, Res.finish_stop], rfl, rfl, rfl, rfl, h0⟩

theorem readBased_ok {base n d : Nat} {s t : State} (h : readBased base n s = .ok d t) :
    base ≤ d ∧ d < base + 2 ^ n := by
  obtain ⟨v, u, hread, hd⟩ := Res.bind_eq_ok.1 h
  rw [readBits_eq (readBits_ok hread).1] at hread
  injection hread with hv
  injection hd with hd
  have hlt := s.field_lt 0 n
  have hle := Nat.mod_le (s.field 0 n) (2 ^ 16)
  rw [← hv, BitVec.toNat_ofNat] at hd
  omega

theorem exec_of_mem_lengthRows :
    ∀ r ∈ Claims.lengthRows, exec r.1 = matchLength r.2.1 r.2.2 :=
  List.map_inj_left.1 rfl

theorem exec_of_mem_distanceRows :
    ∀ r ∈ Claims.distanceRows, exec r.1 = matchDistance r.2.1 r.2.2 :=
  List.map_inj_left.1 rfl

theorem lengthRows_range : ∀ r ∈ Claims.lengthRows, 3 ≤ r.2.1 ∧ r.2.1 + 2 ^ r.2.2 ≤ 259 ∧ r.2.2 ≤ 16 := by decide

theorem distanceRows_range : ∀ r ∈ Claims.distanceRows, 1 ≤ r.2.1 ∧ r.2.1 + 2 ^ r.2.2 ≤ 32769 ∧ r.2.2 ≤ 16 := by
  decide

theorem State.pastBits_work (s : State) (n : Nat) : (s.pastBits n).work = s.work := by
  rw [s.sameButCursor_pastBits n]

/-! ### Literals, the end of a block and the invalid symbols (R171, R172, R175, R176) -/

theorem execLit_of_room {sym : Sym} {s : State} (h : 1 ≤ s.room) :
    execLit sym s = .next { s.push (sym.setWidth 8) with slot := .litLen } := by
  rw [execLit, emit_eq h, Res.bind_ok, Res.finish_ok]

theorem execLit_of_full {sym : Sym} {s : State} (h : s.room = 0) :
    execLit sym s = .next (s.enterStop .truncatedOut) := by
  rw [execLit, emit_stop h, Res.bind_stop, Res.finish_stop]

/-- Settles O32: LIT is EMIT of the low byte, and EMIT has room or not. -/
theorem literalIsEmitted : Obligations.LiteralIsEmitted :=
  fun _ _ _ => ⟨execLit_of_room, execLit_of_full⟩

/-- Settles O33: EOB writes the slot of `afterBlock`. -/
theorem endOfBlockReturnsToTheDriver : Obligations.EndOfBlockReturnsToTheDriver := fun _ => rfl

/-- Settles O37: both elements raise before any micro-operation. -/
theorem invalidSymbolsFaultBeforeExtraBits : Obligations.InvalidSymbolsFaultBeforeExtraBits :=
  fun _ _ => ⟨fun _ => rfl, fun _ => rfl⟩

/-! ### Lengths (R173, R92) -/

/-- Settles O34: a row is `matchLength` of its base and extra bits, and a base plus its bits stays in 3..258. -/
theorem lengthElementsSetMatchLen : Obligations.LengthElementsSetMatchLen := by
  intro r hr s
  obtain ⟨hlo, hhi, hn⟩ := lengthRows_range r hr
  rw [exec_of_mem_lengthRows r hr]
  refine ⟨fun h => ?_, finish_bind_readBased_stop _⟩
  have hlt := s.field_lt 0 r.2.2
  refine ⟨by omega, by omega, ?_⟩
  rw [matchLength, readBased_of_le hn h, Res.bind_ok, Res.finish_ok, State.pastBits_work]

/-! ### The bytes of a match (R161, R163, R173) -/

/-- The `n` bytes a match of distance `d` emits. -/
def State.matchBytes (d : BitVec 16) : (n : Nat) → State → List Byte
  | 0, _ => []
  | n + 1, s => s.ringByte (copySource s d) :: State.matchBytes d n (s.push (s.ringByte (copySource s d)))

@[simp] theorem State.length_matchBytes (d : BitVec 16) (n : Nat) (s : State) : (s.matchBytes d n).length = n := by
  induction n generalizing s with
  | zero => rfl
  | succ n ih => exact congrArg (· + 1) (ih _)

/-- A match that fits (R173). -/
theorem copyMatch_of_room {n : Nat} {s : State} (d : BitVec 16) (h : n ≤ s.room) :
    copyMatch n d s = .ok () (s.pushAll (s.matchBytes d n)) := by
  induction n generalizing s with
  | zero => rfl
  | succ n ih =>
    have hroom : 1 ≤ s.room := by omega
    have hpush := State.room_push (s.ringByte (copySource s d)) hroom
    rw [copyMatch, copyBack, emit_eq hroom, Res.bind_ok, ih (by omega)]
    rfl

/-- A match the output cuts (R178). -/
theorem copyMatch_of_full {n : Nat} {s : State} (d : BitVec 16) (h : s.room < n) :
    copyMatch n d s = .stop .truncatedOut (s.pushAll (s.matchBytes d s.room)) := by
  induction n generalizing s with
  | zero => exact absurd h (Nat.not_lt_zero _)
  | succ n ih =>
    rw [copyMatch, copyBack]
    rcases Nat.eq_zero_or_pos s.room with h0 | hroom
    · rw [emit_stop h0, Res.bind_stop, h0]
      rfl
    · have hpush := State.room_push (s.ringByte (copySource s d)) hroom
      obtain ⟨m, hm⟩ : ∃ m, s.room = m + 1 := ⟨s.room - 1, by omega⟩
      rw [emit_eq hroom, Res.bind_ok, ih (by omega), hpush, hm]
      rfl

/-- The first byte of a match comes from the ring; the rest are those of a match from the state it leaves, where the
slot it was written to stands at distance `d` once `d` bytes have been emitted. -/
theorem State.MatchBytes.cons {s : State} {d : Nat} {bs : List Byte} (hd : 1 ≤ d) (hmax : d ≤ 32768)
    (h : (s.push (s.ringByte ((s.wcur.toNat + 32768 - d) % 32768))).MatchBytes d bs) :
    s.MatchBytes d (s.ringByte ((s.wcur.toNat + 32768 - d) % 32768) :: bs) := by
  have hwcur : s.wcur.toNat < 32768 := s.wcur.isLt
  intro k hk
  cases k with
  | zero => exact (if_pos hd).symm
  | succ k =>
    have hbyte := h k (Nat.lt_of_succ_lt_succ hk)
    rw [State.toNat_wcur_push, State.ringByte_push] at hbyte
    rw [List.getD_cons_succ, hbyte]
    rcases Nat.lt_trichotomy (k + 1) d with hlt | rfl | hgt
    · rw [if_pos (by omega), if_neg (by omega), if_pos hlt]
      congr 1
      omega
    · rw [if_pos (by omega), if_pos (by omega), if_neg (by omega), Nat.sub_self, List.getD_cons_zero]
    · rw [if_neg (by omega), if_neg (by omega), Nat.sub_add_comm (by omega : d ≤ k), List.getD_cons_succ]

theorem State.matchBytes_spec {d : BitVec 16} (hd : 1 ≤ d.toNat) (hmax : d.toNat ≤ 32768) (n : Nat) (s : State) :
    s.MatchBytes d.toNat (s.matchBytes d n) := by
  induction n generalizing s with
  | zero => exact fun _ hk => absurd hk (Nat.not_lt_zero _)
  | succ n ih => exact .cons hd hmax (ih _)

/-! ### Distances (R173, R174, R177, R178, R94) -/

/-- Where the match runs: past the extra bits, `match_dist` written (R174). -/
def State.withMatchDist (s : State) (n d : Nat) : State :=
  { s.pastBits n with work := { s.work with matchDist := BitVec.ofNat 16 d } }

theorem matchDistance_eq {base n : Nat} {s : State} (hn : n ≤ 16) (h : n ≤ s.bitsLeft) :
    matchDistance base n s = (runMatch (s.withMatchDist n (base + s.field 0 n))).finish := by
  rw [matchDistance, readBased_of_le hn h, Res.bind_ok, State.pastBits_work]
  rfl

theorem State.toNat_matchDist_withMatchDist (s : State) (n : Nat) {d : Nat} (h : d ≤ 32768) :
    (s.withMatchDist n d).work.matchDist.toNat = d :=
  Nat.mod_eq_of_lt (h.trans_lt (by decide))

/-- The extra bits and `match_dist` are no part of the window or of the output. -/
theorem State.withMatchDist_frame (s : State) (n d : Nat) :
    (s.withMatchDist n d).ring = s.ring ∧ (s.withMatchDist n d).wcur = s.wcur ∧
      (s.withMatchDist n d).emitted = s.emitted ∧ (s.withMatchDist n d).session = s.session ∧
      (s.withMatchDist n d).room = s.room ∧ (s.withMatchDist n d).work.matchLen = s.work.matchLen := by
  rw [State.withMatchDist, s.sameButCursor_pastBits n]
  exact ⟨rfl, rfl, rfl, rfl, rfl, rfl⟩

/-- EMIT neither reads nor writes the working registers. -/
theorem State.pushAll_work (bs : List Byte) (s : State) (w : WorkRegs) :
    State.pushAll bs { s with work := w } = { State.pushAll bs s with work := w } := by
  induction bs generalizing s with
  | nil => rfl
  | cons b bs ih => exact ih (s.push b)

theorem State.pushAll_withMatchDist (bs : List Byte) (s : State) (n d : Nat) :
    State.pushAll bs (s.withMatchDist n d) =
      { State.pushAll bs (s.pastBits n) with work := { s.work with matchDist := BitVec.ofNat 16 d } } :=
  State.pushAll_work ..

theorem runMatch_of_far {s : State} (h : s.emitted.toNat < s.work.matchDist.toNat) :
    runMatch s = .stop .distanceBeyondHistory s :=
  if_pos h

/-- Within the history a match is its copies, and then the next literal/length symbol. -/
theorem runMatch_of_near {s : State} (h : s.work.matchDist.toNat ≤ s.emitted.toNat) :
    runMatch s =
      (copyMatch s.work.matchLen.toNat s.work.matchDist s).bind fun _ s => .ok () { s with slot := .litLen } :=
  if_neg (Nat.not_lt_of_le h)

theorem distance_range {r : Instr × Nat × Nat} (hr : r ∈ Claims.distanceRows) (s : State) :
    1 ≤ r.2.1 + s.field 0 r.2.2 ∧ r.2.1 + s.field 0 r.2.2 ≤ 32768 := by
  obtain ⟨hlo, hhi, -⟩ := distanceRows_range r hr
  have hlt := s.field_lt 0 r.2.2
  omega

/-- The bytes of the match that runs after `match_dist` has been written are those of a match from `s`. -/
theorem State.matchBytes_withMatchDist {s : State} {d : Nat} (hd : 1 ≤ d) (hmax : d ≤ 32768) (n m : Nat) :
    s.MatchBytes d ((s.withMatchDist n d).matchBytes (s.withMatchDist n d).work.matchDist m) := by
  have hdist := s.toNat_matchDist_withMatchDist n hmax
  obtain ⟨hring, hwcur, -, hsession, -⟩ := s.withMatchDist_frame n d
  have h := State.matchBytes_spec (hdist.symm ▸ hd) (hdist.symm ▸ hmax) m (s.withMatchDist n d)
  simpa only [State.MatchBytes, State.ringByte, hdist, hring, hwcur, hsession] using h

/-- Settles O35: the extra bits are read, and a match within the history and the room is `copyMatch`. -/
theorem distanceElementsRunTheMatch : Obligations.DistanceElementsRunTheMatch := by
  intro r hr s h
  obtain ⟨hd, hmax⟩ := distance_range hr s
  refine ⟨hd, hmax, fun hnear hfits => ?_⟩
  rw [exec_of_mem_distanceRows r hr, matchDistance_eq (distanceRows_range r hr).2.2 h]
  generalize r.2.1 + s.field 0 r.2.2 = d at *
  obtain ⟨-, -, hemitted, -, hroom, hlen⟩ := s.withMatchDist_frame r.2.2 d
  have hdist := s.toNat_matchDist_withMatchDist r.2.2 hmax
  refine ⟨_, State.length_matchBytes .., State.matchBytes_withMatchDist hd hmax r.2.2 _, ?_⟩
  rw [runMatch_of_near (by rwa [hdist, hemitted]), hlen, copyMatch_of_room _ (by rwa [hroom]), Res.bind_ok,
    Res.finish_ok, State.pushAll_withMatchDist]

/-- Settles O36: READ_BITS, the history check and the first EMIT without room are the three places a row can stop. -/
theorem distanceElementsStop : Obligations.DistanceElementsStop := by
  intro r hr s
  obtain ⟨hd, hmax⟩ := distance_range hr s
  rw [exec_of_mem_distanceRows r hr]
  refine ⟨finish_bind_readBased_stop _, fun h hfar => ?_, fun h hnear hcut => ?_⟩ <;>
    rw [matchDistance_eq (distanceRows_range r hr).2.2 h]
  all_goals
    generalize r.2.1 + s.field 0 r.2.2 = d at *
    obtain ⟨-, -, hemitted, -, hroom, hlen⟩ := s.withMatchDist_frame r.2.2 d
    have hdist := s.toNat_matchDist_withMatchDist r.2.2 hmax
  · rw [runMatch_of_far (by rwa [hdist, hemitted])]
    rfl
  · refine ⟨_, State.length_matchBytes .., State.matchBytes_withMatchDist hd hmax r.2.2 _, ?_⟩
    rw [runMatch_of_near (by rwa [hdist, hemitted]), hlen, copyMatch_of_full _ (by rwa [hroom]), hroom,
      Res.bind_stop, Res.finish_stop, State.pushAll_withMatchDist]

/-! ### What the elements leave unchanged (R171, R173, R178, R192) -/

/-- Settles O41: the extra bits move the bit cursor only, and a stop is stop entry there. -/
theorem lengthElementFrame : Obligations.LengthElementFrame := by
  intro r hr s t h
  rw [exec_of_mem_lengthRows r hr, matchLength] at h
  have hframe := readBased_sameButCursor r.2.1 r.2.2 s
  cases hread : readBased r.2.1 r.2.2 s with
  | ok d u =>
    rw [hread, Res.state_ok] at hframe
    rw [hread, Res.bind_ok, Res.finish_ok] at h
    injection h with h
    rw [← h, hframe]
    exact ⟨rfl, fun _ _ => rfl, fun _ _ => rfl⟩
  | stop q u =>
    rw [hread, Res.state_stop] at hframe
    rw [hread, Res.bind_stop, Res.finish_stop] at h
    injection h with h
    rw [← h, hframe]
    exact ⟨rfl, fun hf => absurd rfl hf, (State.hostSideKept_enterStop _ q).bytes⟩

/-- `t` is `s` after input bytes have been read and at most `n` bytes emitted. -/
structure State.Emits (s : State) (n : Nat) (t : State) : Prop where
  frame : t = { s with
    inPos := t.inPos, ring := t.ring, wcur := t.wcur, emitted := t.emitted, outPos := t.outPos, mem := t.mem }
  outPos_ge : s.outPos.toNat ≤ t.outPos.toNat
  outPos_le : t.outPos.toNat ≤ s.outPos.toNat + n
  bytes : s.KeptOutside t (s.outBase.toNat + s.outPos.toNat) (s.outBase.toNat + s.outPos.toNat + n)

theorem State.Emits.refl (s : State) (n : Nat) : s.Emits n s := ⟨rfl, le_rfl, Nat.le_add_right .., fun _ _ => rfl⟩

theorem State.Emits.trans {s t u : State} {m n : Nat} (h : s.Emits m t) (h' : t.Emits n u) : s.Emits (m + n) u := by
  obtain ⟨hframe, hge, hle, hbytes⟩ := h
  obtain ⟨hframe', hge', hle', hbytes'⟩ := h'
  have hbase : t.outBase = s.outBase := by rw [hframe]
  refine ⟨?_, by omega, by omega, fun a ha => ?_⟩
  · rw [hframe']
    rw [hframe]
  · rw [hbytes' a (by rw [hbase]; omega), hbytes a (by omega)]

theorem emits_bind {α β : Type} {x : Res α} {f : α → State → Res β} {s : State} {m n k : Nat} (hk : m + n = k)
    (hx : s.Emits m x.state) (hf : ∀ a (t : State), t.Emits n (f a t).state) : s.Emits k (x.bind f).state := by
  subst hk
  cases x with
  | ok a t => exact hx.trans (hf a t)
  | stop r t => exact hx.trans (.refl t n)

theorem readByte_emits (s : State) : s.Emits 0 (readByte s).state := by
  unfold readByte
  split <;> exact ⟨rfl, le_rfl, le_rfl, fun _ _ => rfl⟩

theorem emit_emits (b : Byte) (s : State) : s.Emits 1 (emit b s).state := by
  rcases Nat.eq_zero_or_pos s.room with h | h
  · rw [emit_stop h]
    exact .refl s 1
  · rw [emit_eq h]
    have hpos := State.toNat_outPos_push b h
    refine ⟨rfl, hpos ▸ Nat.le_succ _, hpos.le, fun a ha => ?_⟩
    rw [Res.state_ok, State.hostByte_push, if_neg (by omega)]

theorem copyMatch_emits_le (n : Nat) (d : BitVec 16) (s : State) : s.Emits n (copyMatch n d s).state := by
  induction n generalizing s with
  | zero => exact .refl s 0
  | succ n ih => exact emits_bind (Nat.add_comm 1 n) (emit_emits _ s) fun _ t => ih t

theorem copyStored_emits (n : Nat) (s : State) : s.Emits n (copyStored n s).state := by
  induction n generalizing s with
  | zero => exact .refl s 0
  | succ n ih =>
    exact emits_bind (Nat.zero_add _) (readByte_emits s) fun b t =>
      emits_bind (Nat.add_comm 1 n) (emit_emits b t) fun _ u => ih u

/-- How an element that emits at most `n` bytes from `s` leaves `t`, by a stop or by the choice of what comes next. -/
structure State.EndsEmitting (s : State) (n : Nat) (t : State) : Prop where
  frame : t = { s with
    inPos := t.inPos, ring := t.ring, wcur := t.wcur, emitted := t.emitted, outPos := t.outPos, slot := t.slot
    state := t.state, cls := t.cls, kind := t.kind, detail := t.detail, mem := t.mem, lost := t.lost }
  bytes : t.state ≠ .failed → s.KeptOutside t (s.outBase.toNat + s.outPos.toNat) (s.outBase.toNat + s.outPos.toNat + n)

theorem State.EndsEmitting.of_stop (s : State) (n : Nat) (r : Stop) : s.EndsEmitting n (s.enterStop r) :=
  ⟨rfl, fun hf => absurd rfl hf⟩

theorem State.Emits.finish {x : Res Unit} {next : State → Slot} {s t : State} {n : Nat} (hx : s.Emits n x.state)
    (h : (x.bind fun _ s => .ok () { s with slot := next s }).finish = .next t) : s.EndsEmitting n t := by
  obtain ⟨hframe, -, -, hbytes⟩ := hx
  cases x with
  | ok _ u =>
    rw [Res.state_ok] at hframe
    rw [Res.bind_ok, Res.finish_ok] at h
    injection h with h
    subst h
    exact ⟨by rw [hframe], fun _ => hbytes⟩
  | stop r u =>
    rw [Res.state_stop] at hframe
    rw [Res.bind_stop, Res.finish_stop] at h
    injection h with h
    subst h
    exact ⟨by rw [hframe]; rfl, fun hf => absurd rfl hf⟩

theorem runMatch_endsEmitting {s t : State} (h : (runMatch s).finish = .next t) :
    s.EndsEmitting s.work.matchLen.toNat t := by
  unfold runMatch at h
  split at h
  · injection h with h
    exact h ▸ .of_stop s _ _
  · exact (copyMatch_emits_le _ _ s).finish h

/-- A distance element: a stop in the extra bits, or the match from where `match_dist` has been written. -/
theorem matchDistance_next {base n : Nat} {s t : State} (h : matchDistance base n s = .next t) :
    ∃ u, s.SameButCursor u ∧ ((∃ r, t = u.enterStop r) ∨
      ∃ d, State.EndsEmitting { u with work := { u.work with matchDist := d } } u.work.matchLen.toNat t) := by
  have hframe := readBased_sameButCursor base n s
  rw [matchDistance] at h
  cases hread : readBased base n s with
  | ok d u =>
    rw [hread] at hframe
    rw [hread, Res.bind_ok] at h
    exact ⟨u, hframe, .inr ⟨BitVec.ofNat 16 d, runMatch_endsEmitting h⟩⟩
  | stop r u =>
    rw [hread] at hframe h
    injection h with h
    exact ⟨u, hframe, .inl ⟨r, h.symm⟩⟩

/-- READ_16LE with fewer than two bytes left: those there are have been read (R120, R123). -/
theorem read16LE_stop {s : State} (h : s.bytesLeft < 2) :
    read16LE s = .stop .truncatedIn (s.pastBytes s.bytesLeft) := by
  rcases Nat.eq_zero_or_pos s.bytesLeft with h0 | h1
  · rw [read16LE, readByte_stop h0, Res.bind_stop, h0, State.pastBytes_zero]
  · have hone : s.bytesLeft = 1 := by omega
    have hnone : (s.pastBytes 1).bytesLeft = 0 := by rw [s.bytesLeft_pastBytes h1, hone]
    rw [read16LE, readByte_eq h1, Res.bind_ok, readByte_stop hnone, Res.bind_stop, hone]

/-- An element that goes on after READ_16LE: it stops with the input exhausted, or has the value (R123). -/
theorem finish_bind_read16LE_next {f : BitVec 16 → State → Res Unit} {s t : State}
    (h : ((read16LE s).bind f).finish = .next t) :
    (∃ p, t = State.enterStop .truncatedIn { s with inPos := p }) ∨
      ∃ p, (f (s.word16At 0) { s with inPos := p }).finish = .next t := by
  rcases Nat.lt_or_ge s.bytesLeft 2 with hlen | hlen
  · rw [read16LE_stop hlen, Res.bind_stop, Res.finish_stop] at h
    injection h with h
    exact .inl ⟨_, h.symm⟩
  · rw [read16LE_eq hlen, Res.bind_ok] at h
    exact .inr ⟨_, h⟩

/-- STORED_LEN: a stop, or the data from where LEN and NLEN have been read (R192). -/
theorem execStoredLen_next {s t : State} (h : execStoredLen s = .next t) :
    ∃ p l m, State.EndsEmitting
      { align s with inPos := p, work := { s.work with storedLen := l, storedNlen := m } } (s.word16At 0).toNat t := by
  rcases finish_bind_read16LE_next h with ⟨p, rfl⟩ | ⟨p, h⟩
  · exact ⟨p, s.work.storedLen, s.work.storedNlen, .of_stop _ _ _⟩
  rcases finish_bind_read16LE_next h with ⟨q, rfl⟩ | ⟨q, h⟩
  · exact ⟨q, s.word16At 0, s.work.storedNlen, .of_stop _ _ _⟩
  dsimp only at h
  split at h
  · injection h with h
    subst h
    exact ⟨q, s.word16At 0, _, .of_stop _ _ _⟩
  · exact ⟨q, s.word16At 0, _, (copyStored_emits _ _).finish h⟩

/-- No element changes a byte outside the output still to come. -/
theorem exec_keptOutside {i : Instr} {s t : State} (h : exec i s = .next t) :
    s.KeptOutside t (s.outBase.toNat + s.outPos.toNat) (s.outBase.toNat + s.outCap.toNat) :=
  ((hostSideKept_keptByElements s).exec h (.refl s)).bytes

/-- Settles O42: EMIT, the copies of a match and those of a stored body write from `out_pos` on, a byte at a time. -/
theorem emittingElementFrame : Obligations.EmittingElementFrame := by
  refine ⟨fun sym s t h => ?_, fun r hr s t h => ?_, fun s t h => ?_⟩ <;> have hout := exec_keptOutside h
  · rcases Nat.eq_zero_or_pos s.room with hroom | hroom
    · injection (execLit_of_full hroom).symm.trans h with h
      subst h
      exact ⟨rfl, fun hf => absurd rfl hf, hout⟩
    · have hbytes := (emit_emits (sym.setWidth 8) s).bytes
      rw [emit_eq hroom] at hbytes
      injection (execLit_of_room hroom).symm.trans h with h
      subst h
      exact ⟨rfl, fun _ => hbytes, hout⟩
  · rw [exec_of_mem_distanceRows r hr] at h
    obtain ⟨u, hu, ⟨q, rfl⟩ | ⟨d, hend⟩⟩ := matchDistance_next h
    · refine ⟨?_, fun hf => absurd rfl hf, hout⟩
      rw [hu]
      rfl
    · rw [hu] at hend
      refine ⟨?_, hend.bytes, hout⟩
      rw [hend.frame]
  · obtain ⟨p, l, m, hend⟩ := execStoredLen_next h
    refine ⟨?_, hend.bytes, hout⟩
    rw [hend.frame]
    rfl

end Sys2Proof.Machine
end

section
/-! PROOFS. Noninterference of the ring (43_lz77.md R177, 70_reset_and_hazards.md R280): two states that agree but for
ring slots outside the window go the same way through every operation. Only COPY_BACK reads the ring, and only at a
distance the history check has passed; EMIT writes the same byte to both. -/
namespace Sys2Proof.Machine

variable {α β : Type}

/-! ### States and answers with the same window -/

/-- The second state is the first but for the ring, and both rings hold the same bytes at distances 1 to `emitted`. -/
inductive State.SameWindow (s : State) : State → Prop where
  | intro (ring' : Store Byte)
      (h : ∀ d, 1 ≤ d → d ≤ s.emitted.toNat →
        State.ringByte { s with ring := ring' } ((s.wcur.toNat + 32768 - d) % 32768) =
          s.ringByte ((s.wcur.toNat + 32768 - d) % 32768)) :
      s.SameWindow { s with ring := ring' }

theorem State.SameWindow.refl (s : State) : s.SameWindow s := ⟨s.ring, fun _ _ _ => rfl⟩

/-- The working registers are no part of the window. -/
theorem State.SameWindow.withWork {s t : State} (h : s.SameWindow t) (f : WorkRegs → WorkRegs) :
    State.SameWindow { s with work := f s.work } { t with work := f t.work } := by
  obtain ⟨ring', h⟩ := h
  exact ⟨ring', h⟩

/-- Two answers are the same value or the same stop, in states with the same window. -/
inductive Res.SameWindow : Res α → Res α → Prop where
  | ok (a : α) {s t : State} (h : s.SameWindow t) : Res.SameWindow (.ok a s) (.ok a t)
  | stop (r : Stop) {s t : State} (h : s.SameWindow t) : Res.SameWindow (.stop r s) (.stop r t)

/-- Where the first outcome is a next state, the second is one with the same window. -/
def OutcomeSameWindow (o o' : Host.Outcome State Fault Refusal) : Prop :=
  ∀ t, o = .next t → ∃ t', o' = .next t' ∧ t.SameWindow t'

theorem OutcomeSameWindow.next {s t : State} (h : s.SameWindow t) : OutcomeSameWindow (.next s) (.next t) := by
  rintro _ ⟨⟩
  exact ⟨t, rfl, h⟩

theorem Res.SameWindow.bind {x y : Res α} {f g : α → State → Res β} (hx : x.SameWindow y)
    (hf : ∀ a s t, x = .ok a s → s.SameWindow t → (f a s).SameWindow (g a t)) :
    (x.bind f).SameWindow (y.bind g) := by
  cases hx with
  | ok a h => exact hf a _ _ rfl h
  | stop r h => exact .stop r h

theorem Res.SameWindow.of_ok {x y : Res α} {a : α} {s : State} (h : x.SameWindow y) (hx : x = .ok a s) :
    ∃ t, y = .ok a t ∧ s.SameWindow t := by
  subst hx
  cases h with
  | ok _ h => exact ⟨_, rfl, h⟩

theorem Res.SameWindow.of_stop {x y : Res α} {r : Stop} {s : State} (h : x.SameWindow y) (hx : x = .stop r s) :
    ∃ t, y = .stop r t ∧ s.SameWindow t := by
  subst hx
  cases h with
  | stop _ h => exact ⟨_, rfl, h⟩

/-- A test that does not look at the ring goes the same way in both states. -/
theorem related_ite {γ : Type} {R : γ → γ → Prop} {c c' : Prop} [Decidable c] [Decidable c'] {x x' y y' : γ}
    (hc : c ↔ c') (hx : R x x') (hy : R y y') : R (if c then x else y) (if c' then x' else y') := by
  by_cases h : c
  · rwa [if_pos h, if_pos (hc.1 h)]
  · rwa [if_neg h, if_neg (mt hc.2 h)]

theorem OutcomeSameWindow.stop (r : Stop) {s t : State} (h : s.SameWindow t) :
    OutcomeSameWindow (.next (s.enterStop r)) (.next (t.enterStop r)) := by
  obtain ⟨ring', h⟩ := h
  exact .next ⟨ring', h⟩

theorem OutcomeSameWindow.finish {x y : Res Unit} (h : x.SameWindow y) : OutcomeSameWindow x.finish y.finish := by
  cases h with
  | ok _ h => exact .next h
  | stop r h => exact .stop r h

/-! ### The Bit Reader and DECODE -/

theorem readByte_sameWindow {s t : State} (h : s.SameWindow t) : (readByte s).SameWindow (readByte t) := by
  obtain ⟨ring', h⟩ := h
  exact related_ite .rfl (.ok _ ⟨ring', h⟩) (.stop _ ⟨ring', h⟩)

theorem refill_sameWindow {s t : State} (h : s.SameWindow t) : (refill s).SameWindow (refill t) := by
  obtain ⟨ring', h⟩ := h
  refine related_ite .rfl ((readByte_sameWindow ⟨ring', h⟩).bind ?_) (.ok _ ⟨ring', h⟩)
  rintro b _ _ - ⟨ring', h⟩
  exact .ok _ ⟨ring', h⟩

theorem readBit_sameWindow {s t : State} (h : s.SameWindow t) : (readBit s).SameWindow (readBit t) := by
  refine (refill_sameWindow h).bind ?_
  rintro _ _ _ - ⟨ring', h⟩
  exact .ok _ ⟨ring', h⟩

theorem readBits_sameWindow (n : Nat) {s t : State} (h : s.SameWindow t) :
    (readBits n s).SameWindow (readBits n t) := by
  induction n generalizing s t with
  | zero => exact .ok _ h
  | succ n ih => exact (readBit_sameWindow h).bind fun _ _ _ _ h => (ih h).bind fun _ _ _ _ h => .ok _ h

theorem readBased_sameWindow (base n : Nat) {s t : State} (h : s.SameWindow t) :
    (readBased base n s).SameWindow (readBased base n t) :=
  (readBits_sameWindow n h).bind fun _ _ _ _ h => .ok _ h

theorem read16LE_sameWindow {s t : State} (h : s.SameWindow t) : (read16LE s).SameWindow (read16LE t) :=
  (readByte_sameWindow h).bind fun _ _ _ _ h => (readByte_sameWindow h).bind fun _ _ _ _ h => .ok _ h

theorem read32LE_sameWindow {s t : State} (h : s.SameWindow t) : (read32LE s).SameWindow (read32LE t) :=
  (readByte_sameWindow h).bind fun _ _ _ _ h => (readByte_sameWindow h).bind fun _ _ _ _ h =>
    (readByte_sameWindow h).bind fun _ _ _ _ h => (readByte_sameWindow h).bind fun _ _ _ _ h => .ok _ h

theorem skipBytes_sameWindow (n : Nat) {s t : State} (h : s.SameWindow t) :
    (skipBytes n s).SameWindow (skipBytes n t) := by
  induction n generalizing s t with
  | zero => exact .ok _ h
  | succ n ih => exact (readByte_sameWindow h).bind fun _ _ _ _ h => ih h

theorem skipZeroTerminatedWithin_sameWindow (n : Nat) {s t : State} (h : s.SameWindow t) :
    (skipZeroTerminatedWithin n s).SameWindow (skipZeroTerminatedWithin n t) := by
  induction n generalizing s t with
  | zero => exact .stop _ h
  | succ n ih => exact (readByte_sameWindow h).bind fun _ _ _ _ h => related_ite .rfl (.ok _ h) (ih h)

theorem skipZeroTerminated_sameWindow {s t : State} (h : s.SameWindow t) :
    (skipZeroTerminated s).SameWindow (skipZeroTerminated t) := by
  obtain ⟨ring', h⟩ := h
  exact skipZeroTerminatedWithin_sameWindow _ ⟨ring', h⟩

theorem decodeFrom_sameWindow (T : Table) (n L : Nat) (cur : Int) (sum : Nat) {s t : State} (h : s.SameWindow t) :
    (decodeFrom T n L cur sum s).SameWindow (decodeFrom T n L cur sum t) := by
  induction n generalizing L cur sum s t with
  | zero => exact .stop _ h
  | succ n ih => exact (readBit_sameWindow h).bind fun _ _ _ _ h => related_ite .rfl (.ok _ h) (ih _ _ _ h)

theorem fetchSymbol_sameWindow (T : Table) {s t : State} (h : s.SameWindow t) :
    (fetchSymbol T s).SameWindow (fetchSymbol T t) := by
  refine (decodeFrom_sameWindow T 15 1 0 0 h).bind ?_
  rintro y _ _ - ⟨ring', h⟩
  exact .ok _ ⟨ring', h⟩

theorem readBlockHeader_sameWindow {s t : State} (h : s.SameWindow t) :
    (readBlockHeader s).SameWindow (readBlockHeader t) := by
  obtain ⟨ring', h⟩ := h
  refine (readBit_sameWindow (s := s.setPhase .blockHeader) ⟨ring', h⟩).bind ?_
  rintro f u _ - ⟨ring', h⟩
  refine (readBits_sameWindow 2 (s := { u with isFinal := f }) ⟨ring', h⟩).bind ?_
  rintro t _ _ - ⟨ring', h⟩
  exact .ok _ ⟨ring', h⟩

theorem fetch_sameWindow {s t : State} (h : s.SameWindow t) : (fetch s).SameWindow (fetch t) := by
  have hslot : t.slot = s.slot := by cases h; rfl
  have hct : t.ct = s.ct := by cases h; rfl
  have hlit : t.litTable = s.litTable := by cases h; rfl
  have hdist : t.distTable = s.distTable := by cases h; rfl
  unfold fetch
  rw [hslot, hct, hlit, hdist]
  split
  case h_1 => exact (readBlockHeader_sameWindow h).bind fun _ _ _ _ h => .ok _ h
  case h_2 | h_3 | h_4 => exact (fetchSymbol_sameWindow _ h).bind fun _ _ _ _ h => .ok _ h
  all_goals exact .ok _ h

/-! ### The output ring -/

/-- EMIT of one byte: the window grows by the slot both have just written. -/
theorem State.SameWindow.push {s t : State} (h : s.SameWindow t) (b : Byte) : (s.push b).SameWindow (t.push b) := by
  obtain ⟨ring', h⟩ := h
  refine ⟨Memory.set ring' s.wcur.toNat b, fun d hd hde => ?_⟩
  have hwcur := s.toNat_wcur_push b
  have hemitted := s.toNat_emitted_push b
  change (State.push b { s with ring := ring' }).ringByte _ = (s.push b).ringByte _
  rw [State.ringByte_push, State.ringByte_push]
  by_cases hnew : ((s.push b).wcur.toNat + 32768 - d) % 32768 = s.wcur.toNat
  · rw [if_pos hnew, if_pos hnew]
  · have hslot : ((s.push b).wcur.toNat + 32768 - d) % 32768 = (s.wcur.toNat + 32768 - (d - 1)) % 32768 := by omega
    rw [if_neg hnew, if_neg hnew, hslot]
    exact h (d - 1) (by omega) (by omega)

theorem emit_sameWindow (b : Byte) {s t : State} (h : s.SameWindow t) : (emit b s).SameWindow (emit b t) := by
  have hpush := h.push b
  obtain ⟨ring', h⟩ := h
  exact related_ite .rfl (.ok _ hpush) (.stop _ ⟨ring', h⟩)

theorem copyStored_sameWindow (n : Nat) {s t : State} (h : s.SameWindow t) :
    (copyStored n s).SameWindow (copyStored n t) := by
  induction n generalizing s t with
  | zero => exact .ok _ h
  | succ n ih =>
    exact (readByte_sameWindow h).bind fun b _ _ _ h => (emit_sameWindow b h).bind fun _ _ _ _ h => ih h

theorem emit_ok {b : Byte} {s t : State} {a : Unit} (h : emit b s = .ok a t) : t = s.push b := by
  unfold emit at h
  split at h
  · injection h with _ h
    exact h.symm
  · cases h

/-- A match within the history: both rings give the same byte, and the window never gets shorter than the distance. -/
theorem copyMatch_sameWindow (n : Nat) {d : BitVec 16} (hd : 1 ≤ d.toNat) (hmax : d.toNat ≤ 32768) {s t : State}
    (hnear : d.toNat ≤ s.emitted.toNat) (h : s.SameWindow t) : (copyMatch n d s).SameWindow (copyMatch n d t) := by
  induction n generalizing s t with
  | zero => exact .ok _ h
  | succ n ih =>
    have hbyte : t.ringByte (copySource t d) = s.ringByte (copySource s d) := by
      obtain ⟨ring', h⟩ := h
      exact h d.toNat hd hnear
    rw [copyMatch, copyMatch, copyBack, copyBack, hbyte]
    refine (emit_sameWindow _ h).bind fun _ u _ hu h => ih ?_ h
    rw [emit_ok hu, State.toNat_emitted_push]
    omega

/-! ### The container's elements (R221 to R233) -/

theorem execMagic_sameWindow {s t : State} (h : s.SameWindow t) : OutcomeSameWindow (execMagic s) (execMagic t) :=
  .finish <| (readByte_sameWindow h).bind fun _ _ _ _ h => related_ite .rfl (.stop _ h) <|
    (readByte_sameWindow h).bind fun _ _ _ _ ⟨ring', h⟩ =>
      related_ite .rfl (.stop _ ⟨ring', h⟩) (.ok _ ⟨ring', h⟩)

theorem execMethod_sameWindow {s t : State} (h : s.SameWindow t) : OutcomeSameWindow (execMethod s) (execMethod t) :=
  .finish <| (readByte_sameWindow h).bind fun _ _ _ _ ⟨ring', h⟩ =>
    related_ite .rfl (.stop _ ⟨ring', h⟩) (.ok _ ⟨ring', h⟩)

theorem execFlags_sameWindow {s t : State} (h : s.SameWindow t) : OutcomeSameWindow (execFlags s) (execFlags t) :=
  .finish <| (readByte_sameWindow h).bind fun _ _ _ _ ⟨ring', h⟩ => .ok _ ⟨ring', h⟩

theorem execSkipFixed_sameWindow {s t : State} (h : s.SameWindow t) :
    OutcomeSameWindow (execSkipFixed s) (execSkipFixed t) :=
  .finish <| (read32LE_sameWindow h).bind fun _ _ _ _ h => (readByte_sameWindow h).bind fun _ _ _ _ h =>
    (readByte_sameWindow h).bind fun _ _ _ _ ⟨ring', h⟩ => .ok _ ⟨ring', h⟩

theorem execExtra_sameWindow {s t : State} (h : s.SameWindow t) : OutcomeSameWindow (execExtra s) (execExtra t) :=
  .finish <| (read16LE_sameWindow h).bind fun n _ _ _ h =>
    (skipBytes_sameWindow n.toNat (h.withWork fun w => { w with xlen := n })).bind
      fun _ _ _ _ ⟨ring', h⟩ => .ok _ ⟨ring', h⟩

theorem execName_sameWindow {s t : State} (h : s.SameWindow t) : OutcomeSameWindow (execName s) (execName t) :=
  .finish <| (skipZeroTerminated_sameWindow h).bind fun _ _ _ _ ⟨ring', h⟩ => .ok _ ⟨ring', h⟩

theorem execComment_sameWindow {s t : State} (h : s.SameWindow t) :
    OutcomeSameWindow (execComment s) (execComment t) :=
  .finish <| (skipZeroTerminated_sameWindow h).bind fun _ _ _ _ ⟨ring', h⟩ => .ok _ ⟨ring', h⟩

theorem execHcrc_sameWindow {s t : State} (h : s.SameWindow t) : OutcomeSameWindow (execHcrc s) (execHcrc t) :=
  .finish <| (read16LE_sameWindow h).bind fun _ _ _ _ ⟨ring', h⟩ => .ok _ ⟨ring', h⟩

theorem execTrailer_sameWindow {s t : State} (h : s.SameWindow t) :
    OutcomeSameWindow (execTrailer s) (execTrailer t) := by
  obtain ⟨ring', h⟩ := h
  refine .finish <| (read32LE_sameWindow (s := s.setPhase .trailer) ⟨ring', h⟩).bind fun crc u _ _ ⟨ring', h⟩ => ?_
  exact (read32LE_sameWindow (s := { u with crcField := crc }) ⟨ring', h⟩).bind
    fun _ _ _ _ ⟨ring', h⟩ => .ok _ ⟨ring', h⟩

/-! ### The blocks and the table description (R191 to R204) -/

theorem execStoredLen_sameWindow {s t : State} (h : s.SameWindow t) :
    OutcomeSameWindow (execStoredLen s) (execStoredLen t) := by
  obtain ⟨ring', h⟩ := h
  refine .finish <| (read16LE_sameWindow (s := align s) ⟨ring', h⟩).bind fun len _ _ _ h => ?_
  refine (read16LE_sameWindow (h.withWork fun w => { w with storedLen := len })).bind fun nlen _ _ _ h => ?_
  have hnlen := h.withWork fun w => { w with storedNlen := nlen }
  exact related_ite .rfl (.stop _ hnlen) <| (copyStored_sameWindow len.toNat hnlen).bind
    fun _ _ _ _ ⟨ring', h⟩ => .ok _ ⟨ring', h⟩

theorem State.SameWindow.codeLens {s t : State} (h : s.SameWindow t) (a n : Nat) : t.codeLens a n = s.codeLens a n := by
  cases h
  rfl

theorem buildTables_sameWindow {s t : State} (h : s.SameWindow t) : s.buildTables.SameWindow t.buildTables := by
  have hlens := h.codeLens
  obtain ⟨ring', h⟩ := h
  unfold State.buildTables
  rw [hlens, hlens]
  generalize build (s.codeLens 0 _) = lt, build (s.codeLens _ _) = dt
  exact ⟨ring', h⟩

theorem nextCodeLength_sameWindow {s t : State} (h : s.SameWindow t) :
    s.nextCodeLength.SameWindow t.nextCodeLength := by
  have htables := buildTables_sameWindow h
  obtain ⟨ring', h⟩ := h
  unfold State.nextCodeLength
  dsimp only
  split
  · exact ⟨ring', h⟩
  · exact htables

theorem repeatLen_sameWindow (base n : Nat) (v : BitVec 4) {s t : State} (h : s.SameWindow t) :
    (repeatLen base n v s).SameWindow (repeatLen base n v t) :=
  (readBased_sameWindow base n h).bind fun _ _ _ _ ⟨ring', h⟩ =>
    related_ite .rfl (.stop _ ⟨ring', h⟩) (.ok _ (nextCodeLength_sameWindow ⟨ring', h⟩))

theorem execDynHdr_sameWindow {s t : State} (h : s.SameWindow t) :
    OutcomeSameWindow (execDynHdr s) (execDynHdr t) := by
  refine .finish <| (readBits_sameWindow 5 h).bind fun hlit _ _ _ h => ?_
  refine (readBits_sameWindow 5 (h.withWork fun w => { w with hlit := hlit.setWidth 5 })).bind
    fun hdist _ _ _ h => ?_
  refine (readBits_sameWindow 4 (h.withWork fun w => { w with hdist := hdist.setWidth 5 })).bind
    fun _ u _ _ ⟨ring', h⟩ => ?_
  dsimp only
  generalize Memory.fill 19 0 0 u.lens = zeroed
  exact .ok _ ⟨ring', h⟩

theorem startCodeLengths_sameWindow {s t : State} (h : s.SameWindow t) :
    s.startCodeLengths.SameWindow t.startCodeLengths := by
  have hlens := h.codeLens 0 19
  obtain ⟨ring', h⟩ := h
  unfold State.startCodeLengths
  rw [hlens]
  generalize build (s.codeLens 0 19) = ct
  exact nextCodeLength_sameWindow ⟨ring', h⟩

theorem execCll_sameWindow {s t : State} (h : s.SameWindow t) : OutcomeSameWindow (execCll s) (execCll t) :=
  .finish <| (readBits_sameWindow 3 h).bind fun _ _ _ _ ⟨ring', h⟩ =>
    related_ite .rfl (.ok _ ⟨ring', h⟩) (.ok _ (startCodeLengths_sameWindow ⟨ring', h⟩))

theorem execClLit_sameWindow (sym : Sym) {s t : State} (h : s.SameWindow t) :
    OutcomeSameWindow (execClLit sym s) (execClLit sym t) := by
  obtain ⟨ring', h⟩ := h
  exact .next (nextCodeLength_sameWindow ⟨ring', h⟩)

theorem execClRep16_sameWindow {s t : State} (h : s.SameWindow t) :
    OutcomeSameWindow (execClRep16 s) (execClRep16 t) := by
  obtain ⟨ring', h⟩ := h
  exact .finish (related_ite .rfl (.stop _ ⟨ring', h⟩) (repeatLen_sameWindow 3 2 _ ⟨ring', h⟩))

/-! ### The expander (R171 to R178) -/

theorem execLit_sameWindow (sym : Sym) {s t : State} (h : s.SameWindow t) :
    OutcomeSameWindow (execLit sym s) (execLit sym t) :=
  .finish <| (emit_sameWindow _ h).bind fun _ _ _ _ ⟨ring', h⟩ => .ok _ ⟨ring', h⟩

theorem matchLength_sameWindow (base n : Nat) {s t : State} (h : s.SameWindow t) :
    OutcomeSameWindow (matchLength base n s) (matchLength base n t) :=
  .finish <| (readBased_sameWindow base n h).bind fun _ _ _ _ ⟨ring', h⟩ => .ok _ ⟨ring', h⟩

/-- The history check lets no distance past the window through (R177). -/
theorem runMatch_sameWindow {s t : State} (hd : 1 ≤ s.work.matchDist.toNat) (hmax : s.work.matchDist.toNat ≤ 32768)
    (h : s.SameWindow t) : (runMatch s).SameWindow (runMatch t) := by
  have hwork : t.work = s.work := by cases h; rfl
  have hemitted : t.emitted = s.emitted := by cases h; rfl
  rcases Nat.lt_or_ge s.emitted.toNat s.work.matchDist.toNat with hfar | hnear
  · rw [runMatch_of_far hfar, runMatch_of_far (by rwa [hwork, hemitted])]
    exact .stop _ h
  · rw [runMatch_of_near hnear, runMatch_of_near (by rwa [hwork, hemitted]), hwork]
    exact (copyMatch_sameWindow _ hd hmax hnear h).bind fun _ _ _ _ ⟨ring', h⟩ => .ok _ ⟨ring', h⟩

theorem matchDistance_sameWindow {base n : Nat} (hlo : 1 ≤ base) (hhi : base + 2 ^ n ≤ 32769) {s t : State}
    (h : s.SameWindow t) : OutcomeSameWindow (matchDistance base n s) (matchDistance base n t) := by
  refine .finish <| (readBased_sameWindow base n h).bind fun d u _ hread ⟨ring', h⟩ => ?_
  obtain ⟨hd, hmax⟩ := readBased_ok hread
  have hdist : (BitVec.ofNat 16 d).toNat = d := Nat.mod_eq_of_lt (by omega)
  exact runMatch_sameWindow (s := { u with work := { u.work with matchDist := BitVec.ofNat 16 d } })
    (by rw [hdist]; omega) (by rw [hdist]; omega) ⟨ring', h⟩

/-! ### Every element, and a step of the core -/

/-- Of all the elements only those of a distance read the ring. -/
theorem exec_sameWindow (i : Instr) {s t : State} (h : s.SameWindow t) : OutcomeSameWindow (exec i s) (exec i t) := by
  cases i
  case magic => exact execMagic_sameWindow h
  case method => exact execMethod_sameWindow h
  case flags => exact execFlags_sameWindow h
  case skipFixed => exact execSkipFixed_sameWindow h
  case extra => exact execExtra_sameWindow h
  case name => exact execName_sameWindow h
  case comment => exact execComment_sameWindow h
  case hcrc => exact execHcrc_sameWindow h
  case trailer => exact execTrailer_sameWindow h
  case blockStored | blockFixed | blockDynamic | eob =>
    obtain ⟨ring', h⟩ := h
    exact .next ⟨ring', h⟩
  case blockReserved f =>
    obtain ⟨ring', h⟩ := h
    exact .stop _ (s := s.setBlock f 3) ⟨ring', h⟩
  case invalidLen | invalidDist => exact .stop _ h
  case storedLen => exact execStoredLen_sameWindow h
  case dynHdr => exact execDynHdr_sameWindow h
  case cll => exact execCll_sameWindow h
  case clLit sym => exact execClLit_sameWindow sym h
  case clRep16 => exact execClRep16_sameWindow h
  case clZero17 | clZero18 => exact .finish (repeatLen_sameWindow _ _ 0 h)
  case lit sym => exact execLit_sameWindow sym h
  case len257 | len258 | len259 | len260 | len261 | len262 | len263 | len264 | len285 =>
    exact matchLength_sameWindow _ 0 h
  case len265 | len266 | len267 | len268 |
      len269 | len270 | len271 | len272 | len273 | len274 | len275 | len276 | len277 | len278 | len279 | len280 |
      len281 | len282 | len283 | len284 => exact matchLength_sameWindow _ _ h
  case dist0 | dist1 | dist2 | dist3 | dist4 | dist5 | dist6 | dist7 | dist8 | dist9 | dist10 | dist11 | dist12 |
      dist13 | dist14 | dist15 | dist16 | dist17 | dist18 | dist19 | dist20 | dist21 | dist22 | dist23 | dist24 |
      dist25 | dist26 | dist27 | dist28 | dist29 => exact matchDistance_sameWindow (by decide) (by decide) h

theorem coreStep_sameWindow {s t : State} (h : s.SameWindow t) : OutcomeSameWindow (coreStep s) (coreStep t) := by
  have hstate : t.state = s.state := by cases h; rfl
  have hfetch := fetch_sameWindow h
  intro u hu
  rcases coreStep_next hu with ⟨hb, rfl⟩ | ⟨hb, r, v, hf, rfl⟩ | ⟨hb, i, v, hf, he⟩
  · exact ⟨t, coreStep_of_not_busy (hstate ▸ hb), h⟩
  · obtain ⟨w, hw, ring', h⟩ := hfetch.of_stop hf
    exact ⟨_, coreStep_of_fetch_stop (hstate.trans hb) hw, ring', h⟩
  · obtain ⟨w, hw, h⟩ := hfetch.of_ok hf
    rw [coreStep_of_fetch_ok (hstate.trans hb) hw]
    exact exec_sameWindow i h u he

/-! ### The host -/

/-- A register read looks at no ring. -/
theorem readReg_sameWindow (off : Word) {s t : State} (h : s.SameWindow t) :
    (s.readReg off).SameWindow (t.readReg off) := by
  obtain ⟨ring', h⟩ := h
  have hbusy : ({ s with ring := ring' } : State).state = s.state := rfl
  unfold State.readReg State.readStatus State.readCount
  rw [hbusy]
  by_cases hb : s.state = .busy
  · simp only [if_pos hb, State.choose]
    split <;> exact ⟨ring', h⟩
  · simp only [if_neg hb]
    split <;> exact ⟨ring', h⟩

theorem readMem_sameWindow (a : Nat) {s t : State} (h : s.SameWindow t) : (s.readMem a).SameWindow (t.readMem a) := by
  obtain ⟨ring', h⟩ := h
  unfold State.readMem
  dsimp only
  split <;> exact ⟨ring', h⟩

theorem OutcomeSameWindow.refused (r r' : Refusal) : OutcomeSameWindow (.refused r) (.refused r') := by
  rintro _ ⟨⟩

/-- START empties both rings. -/
theorem start_sameWindow {s t : State} (h : s.SameWindow t) : OutcomeSameWindow s.start t.start := by
  obtain ⟨ring', h⟩ := h
  exact related_ite .rfl (.refused _ _) (related_ite .rfl (.refused _ _) (.next (.refl s.startSession)))

theorem writeReg_sameWindow (off v : Word) {s t : State} (h : s.SameWindow t) :
    OutcomeSameWindow (s.writeReg off v) (t.writeReg off v) := by
  have hstart := start_sameWindow h
  obtain ⟨ring', h⟩ := h
  refine related_ite .rfl (.next ⟨ring', h⟩) ?_
  split
  · exact related_ite .rfl hstart (.next ⟨ring', h⟩)
  all_goals exact .next ⟨ring', h⟩

theorem hostStep_sameWindow (m : HostMove) {s t : State} (h : s.SameWindow t) :
    OutcomeSameWindow (hostStep m s) (hostStep m t) := by
  have hread := fun off => readReg_sameWindow off h
  have hwrite := fun off v => writeReg_sameWindow off v h
  have hmem := fun a => readMem_sameWindow a h
  obtain ⟨ring', h⟩ := h
  cases m with
  | idle => exact .next ⟨ring', h⟩
  | regRead addr bytes => exact related_ite .rfl (.refused _ _) (related_ite .rfl (.refused _ _) (.next (hread _)))
  | regWrite addr bytes v => exact related_ite .rfl (.refused _ _) (related_ite .rfl (.refused _ _) (hwrite _ v))
  | memRead addr => exact related_ite .rfl (.refused _ _) (related_ite .rfl (.refused _ _) (.next (hmem _)))
  | memWrite addr b =>
    exact related_ite .rfl (.refused _ _) (related_ite .rfl (.refused _ _) (related_ite .rfl (.refused _ _) (.next ⟨ring', h⟩)))
  | powerOn => exact .next (.refl s.powerOn)

/-! ### Every step -/

theorem step_sameWindow {s t : State} (h : s.SameWindow t) : OutcomeSameWindow (step s) (step t) := by
  obtain ⟨ring', h⟩ := h
  have hrest : ∀ rest, State.SameWindow { s with host := rest } { s with ring := ring', host := rest } :=
    fun _ => ⟨ring', h⟩
  unfold step
  dsimp only
  split
  · exact coreStep_sameWindow ⟨ring', h⟩
  · exact coreStep_sameWindow (hrest _)
  · exact hostStep_sameWindow _ (hrest _)

/-- Settles O60: COPY_BACK alone reads the ring, within the window by the history check, and EMIT writes the same slot in
both states. The relation is kept without the cursor relations, since EMIT caps `emitted` at the size of the ring. -/
theorem ringOutsideTheWindowIsNeverRead : Obligations.RingOutsideTheWindowIsNeverRead := by
  intro s t ring' _ hring h
  obtain ⟨_, ht, ring'', hring⟩ := step_sameWindow ⟨ring', hring⟩ t h
  exact ⟨_, ht, rfl, hring⟩

end Sys2Proof.Machine
end

section
/-! PROOFS. The block header and the stored body (44_deflate_block.md, sections 1 and 2): the three bits of a header as
the fetch reads them, the body each header starts, and the copy of a stored body up to the first byte that is missing or
does not fit. -/
namespace Sys2Proof.Machine

/-! ### The block header as the fetch reads it (R191) -/

theorem State.pastBits_setPhase (s : State) (p : Phase) (n : Nat) :
    (s.setPhase p).pastBits n = (s.pastBits n).setPhase p := by
  by_cases h : n ≤ s.bitcnt.toNat
  · rw [State.pastBits, State.pastBits, if_pos h, if_pos (show n ≤ (s.setPhase p).bitcnt.toNat from h)]
    rfl
  · rw [State.pastBits, State.pastBits, if_neg h, if_neg (show ¬ n ≤ (s.setPhase p).bitcnt.toNat from h)]
    rfl

theorem fetch_blockHeader {s : State} (hs : s.slot = .blockHeader) :
    fetch s = (readBlockHeader s).bind fun v s => .ok (decode .blockHeader v.toNat) s := by
  simp only [fetch, hs]

theorem State.toNat_ofNat_field (s : State) {k n w : Nat} (h : n ≤ w) :
    (BitVec.ofNat w (s.field k n)).toNat = s.field k n :=
  Nat.mod_eq_of_lt ((s.field_lt k n).trans_le (Nat.pow_le_pow_right Nat.two_pos h))

/-- A bit field cut short: every bit has been consumed, and nothing but the bit cursor has moved (R121, R122). -/
theorem readBits_cut {n : Nat} {s : State} (h : s.bitsLeft < n) :
    ∃ t, readBits n s = .stop .truncatedIn t ∧ t.bitsLeft = 0 ∧ s.SameButCursor t := by
  obtain ⟨t, ht, h0⟩ := readBits_stop h
  have hframe := readBits_sameButCursor n s
  rw [ht] at hframe
  exact ⟨t, ht, h0, hframe⟩

/-- BLOCK_HEADER with BTYPE cut short: BFINAL has been written. -/
theorem readBlockHeader_cut {s : State} (h1 : 1 ≤ s.bitsLeft) (h3 : s.bitsLeft < 3) :
    ∃ t, readBlockHeader s = .stop .truncatedIn t ∧ t.bitsLeft = 0 ∧
      State.SameButCursor { s.setPhase .blockHeader with isFinal := BitVec.ofBool (s.bitAt 0) } t := by
  have hbit : readBit (s.setPhase .blockHeader) =
      .ok (BitVec.ofBool (s.bitAt 0)) ((s.pastBits 1).setPhase .blockHeader) :=
    s.pastBits_setPhase .blockHeader 1 ▸ readBit_eq (s := s.setPhase .blockHeader) h1
  have hleft := State.bitsLeft_pastBits_one h1
  obtain ⟨t, ht, h0, hframe⟩ := readBits_cut (n := 2)
    (s := { (s.pastBits 1).setPhase .blockHeader with isFinal := BitVec.ofBool (s.bitAt 0) })
    (show (s.pastBits 1).bitsLeft < 2 by omega)
  refine ⟨t, by rw [readBlockHeader, hbit, Res.bind_ok, ht, Res.bind_stop], h0, ?_⟩
  rw [s.sameButCursor_pastBits 1] at hframe
  exact hframe

/-- Settles O16: BLOCK_HEADER writes the phase, reads BFINAL and writes it, and then reads BTYPE. -/
theorem blockHeaderFetchWritesFinalAndType : Obligations.BlockHeaderFetchWritesFinalAndType := by
  intro s hs
  rw [fetch_blockHeader hs]
  refine ⟨_, s.mem_phasesHeld_setPhase .blockHeader, fun h3 => ?_, fun h1 h3 => ?_, fun h0 => ?_⟩
  · rw [readBlockHeader_eq h3, Res.bind_ok, s.toNat_ofNat_field le_rfl, State.pastBits_setPhase,
      BitVec.setWidth_ofNat_of_le (by decide), s.sameButCursor_pastBits 3]
    rfl
  · obtain ⟨t, ht, hleft, hframe⟩ := readBlockHeader_cut h1 h3
    refine ⟨t, by rw [ht, Res.bind_stop], hleft, ?_⟩
    rw [hframe]
    exact ⟨rfl, rfl, rfl, rfl⟩
  · rw [readBlockHeader, readBit_stop (s := s.setPhase .blockHeader) h0]
    rfl

/-! ### The body a header starts (R192 to R195) -/

/-- Settles O24: each header element is one write of `is_final`, `btype` and the control point. -/
theorem blockHeadersSelectTheBody : Obligations.BlockHeadersSelectTheBody := fun _ s =>
  ⟨_, _, _, fun _ => ⟨s.mem_phasesHeld_setPhase .stored _, s.mem_phasesHeld_setPhase .huffman _,
    s.mem_phasesHeld_setPhase .dynTables _⟩, rfl, rfl, rfl, rfl⟩

/-! ### EMIT leaves the input to come (R61, R75, R160) -/

/-- A byte emitted into the output changes no byte of an input that does not overlap it. -/
theorem State.byteAt_push {s : State} {k : Nat} (ho : s.regionsOverlap = false) (hk : k < s.bytesLeft)
    (hroom : 1 ≤ s.room) (b : Byte) : (s.push b).byteAt k = s.byteAt k := by
  simp only [State.bytesLeft, State.room] at hk hroom
  have hin : s.inInput (s.inBase.toNat + (s.inPos.toNat + k)) = true := by
    simp only [State.inInput, Bool.and_eq_true, decide_eq_true_iff]
    omega
  have hout := State.inOutput_eq_false_of_inInput ho hin
  simp only [State.inOutput, Bool.and_eq_false_iff, decide_eq_false_iff_not] at hout
  have hbyte : (s.push b).byteAt k = (s.push b).hostByte (s.inBase.toNat + (s.inPos.toNat + k)) := rfl
  rw [hbyte, State.hostByte_push, if_neg (by omega)]
  rfl

theorem State.bytesLeft_pushAll (bs : List Byte) (s : State) : (State.pushAll bs s).bytesLeft = s.bytesLeft := by
  induction bs generalizing s with
  | nil => rfl
  | cons b bs ih => exact ih (s.push b)

theorem State.pushAll_pastBytes (bs : List Byte) (s : State) (n : Nat) :
    State.pushAll bs (s.pastBytes n) = (State.pushAll bs s).pastBytes n := by
  induction bs generalizing s with
  | nil => rfl
  | cons b bs ih => exact ih (s.push b)

theorem State.isFinal_pushAll (bs : List Byte) (s : State) : (State.pushAll bs s).isFinal = s.isFinal := by
  induction bs generalizing s with
  | nil => rfl
  | cons b bs ih => exact ih (s.push b)

theorem State.room_pushAll {bs : List Byte} {s : State} (h : bs.length ≤ s.room) :
    (State.pushAll bs s).room = s.room - bs.length := by
  induction bs generalizing s with
  | nil => rfl
  | cons b bs ih =>
    rw [List.length_cons] at h ⊢
    have hpush := s.room_push b (by omega)
    rw [State.pushAll_cons, ih (by omega)]
    omega

/-! ### The copy of a stored body (R192) -/

/-- The next `n` input bytes. -/
def State.inputBytes (s : State) (n : Nat) : List Byte := (List.range n).map s.byteAt

@[simp] theorem State.length_inputBytes (s : State) (n : Nat) : (s.inputBytes n).length = n := by
  rw [State.inputBytes, List.length_map, List.length_range]

theorem State.inputBytes_succ (s : State) (n : Nat) :
    s.inputBytes (n + 1) = s.byteAt 0 :: (List.range n).map fun k => s.byteAt (k + 1) := by
  rw [State.inputBytes, List.range_succ_eq_map, List.map_cons, List.map_map]
  rfl

theorem State.inputBytes_pastBytes {s : State} {m : Nat} (h : m ≤ s.bytesLeft) (n : Nat) :
    (s.pastBytes m).inputBytes n = (List.range n).map fun k => s.byteAt (m + k) :=
  List.map_congr_left fun k _ => s.byteAt_pastBytes h k

/-- The state after the next `n` input bytes have been read and emitted in order. -/
def State.copied (s : State) (n : Nat) : State := State.pushAll (s.inputBytes n) (s.pastBytes n)

/-- The byte just copied leaves the bytes that are copied after it. -/
theorem State.copied_succ {s : State} {n : Nat} (ho : s.regionsOverlap = false) (hin : n + 1 ≤ s.bytesLeft)
    (hroom : 1 ≤ s.room) : ((s.pastBytes 1).push (s.byteAt 0)).copied n = s.copied (n + 1) := by
  have hleft := s.bytesLeft_pastBytes (n := 1) (by omega)
  have hbytes : ((s.pastBytes 1).push (s.byteAt 0)).inputBytes n = (List.range n).map fun k => s.byteAt (k + 1) :=
    List.map_congr_left fun k hk => by
      rw [List.mem_range] at hk
      rw [State.byteAt_push (s := s.pastBytes 1) ho (by omega) hroom, s.byteAt_pastBytes (by omega), Nat.add_comm]
  have hpast : ((s.pastBytes 1).push (s.byteAt 0)).pastBytes n = (s.pastBytes (n + 1)).push (s.byteAt 0) := by
    rw [Nat.add_comm n, ← s.pastBytes_pastBytes 1 n]
    rfl
  rw [State.copied, State.copied, hbytes, hpast, State.inputBytes_succ, State.pushAll_cons]

/-- The data of a stored body up to a byte that is there and fits. -/
theorem copyStored_add {s : State} {n : Nat} (ho : s.regionsOverlap = false) (hin : n ≤ s.bytesLeft)
    (hroom : n ≤ s.room) (m : Nat) : copyStored (n + m) s = copyStored m (s.copied n) := by
  induction n generalizing s with
  | zero => rw [Nat.zero_add, State.copied, State.pastBytes_zero]; rfl
  | succ n ih =>
    have hfits : 1 ≤ (s.pastBytes 1).room := show 1 ≤ s.room by omega
    have hleft : ((s.pastBytes 1).push (s.byteAt 0)).bytesLeft = s.bytesLeft - 1 := s.bytesLeft_pastBytes (by omega)
    have hpush : ((s.pastBytes 1).push (s.byteAt 0)).room = s.room - 1 := State.room_push _ hfits
    rw [Nat.add_right_comm, copyStored, readByte_eq (by omega), Res.bind_ok, emit_eq hfits, Res.bind_ok,
      ih (s := (s.pastBytes 1).push (s.byteAt 0)) ho (by omega) (by omega), State.copied_succ ho hin hfits]

theorem copyStored_of_fits {s : State} {n : Nat} (ho : s.regionsOverlap = false) (hin : n ≤ s.bytesLeft)
    (hroom : n ≤ s.room) : copyStored n s = .ok () (s.copied n) :=
  copyStored_add ho hin hroom 0

theorem State.bytesLeft_copied {s : State} {n : Nat} (h : n ≤ s.bytesLeft) :
    (s.copied n).bytesLeft = s.bytesLeft - n := by
  rw [State.copied, State.bytesLeft_pushAll, s.bytesLeft_pastBytes h]

theorem State.room_copied {s : State} {n : Nat} (h : n ≤ s.room) : (s.copied n).room = s.room - n := by
  have hlen := s.length_inputBytes n
  rw [State.copied, State.room_pushAll (s := s.pastBytes n) (hlen.trans_le h), hlen]
  rfl

/-- The input ends before the data does. -/
theorem copyStored_of_short {s : State} {n : Nat} (ho : s.regionsOverlap = false) (hin : s.bytesLeft < n)
    (hroom : s.bytesLeft ≤ s.room) : copyStored n s = .stop .truncatedIn (s.copied s.bytesLeft) := by
  obtain ⟨m, rfl⟩ := Nat.exists_eq_add_of_lt hin
  have hnone : (s.copied s.bytesLeft).bytesLeft = 0 := by rw [State.bytesLeft_copied le_rfl, Nat.sub_self]
  rw [Nat.add_assoc, copyStored_add ho le_rfl hroom, copyStored, readByte_stop hnone, Res.bind_stop]

/-- The output is full before the data ends: the byte that does not fit has been read. -/
theorem copyStored_of_full {s : State} {n : Nat} (ho : s.regionsOverlap = false) (hin : s.room < s.bytesLeft)
    (hroom : s.room < n) : copyStored n s = .stop .truncatedOut ((s.copied s.room).pastBytes 1) := by
  obtain ⟨m, rfl⟩ := Nat.exists_eq_add_of_lt hroom
  have hleft : (s.copied s.room).bytesLeft = s.bytesLeft - s.room := State.bytesLeft_copied hin.le
  have hfull : ((s.copied s.room).pastBytes 1).room = 0 := (State.room_copied le_rfl).trans (Nat.sub_self _)
  rw [Nat.add_assoc, copyStored_add ho hin.le le_rfl, copyStored, readByte_eq (by omega), Res.bind_ok,
    emit_stop hfull, Res.bind_stop]

/-! ### STORED_LEN (R192) -/

/-- READ_16LE neither reads nor writes the working registers. -/
theorem read16LE_withWork {s : State} (w : WorkRegs) (h : 2 ≤ s.bytesLeft) :
    read16LE { s with work := w } = .ok (s.word16At 0) { s.pastBytes 2 with work := w } :=
  read16LE_eq (s := { s with work := w }) h

theorem read16LE_withWork_stop {s : State} (w : WorkRegs) (h : s.bytesLeft < 2) :
    read16LE { s with work := w } = .stop .truncatedIn { s.pastBytes s.bytesLeft with work := w } :=
  read16LE_stop (s := { s with work := w }) h

theorem State.word16At_pastBytes {s : State} {m : Nat} (h : m ≤ s.bytesLeft) (k : Nat) :
    (s.pastBytes m).word16At k = s.word16At (m + k) := by
  rw [State.word16At, s.byteAt_pastBytes h, s.byteAt_pastBytes h]
  rfl

/-- Where the data of a stored body begins: aligned, past LEN and NLEN, which are latched. -/
def State.atStoredData (s : State) : State :=
  { (align s).pastBytes 4 with work := { s.work with storedLen := s.word16At 0, storedNlen := s.word16At 2 } }

/-- LEN and NLEN whole: they are latched, and the data is copied if they agree. -/
theorem execStoredLen_eq {s : State} (h : 4 ≤ s.bytesLeft) :
    execStoredLen s =
      (if s.word16At 2 ≠ ~~~ s.word16At 0 then Res.stop .storedLengthMismatch s.atStoredData
        else (copyStored (s.word16At 0).toNat s.atStoredData).bind fun _ s =>
          .ok () { s with slot := afterBlock s.isFinal }).finish := by
  have h2 : 2 ≤ (align s).bytesLeft := show 2 ≤ s.bytesLeft by omega
  have hleft := (align s).bytesLeft_pastBytes h2
  have h4 : 4 ≤ (align s).bytesLeft := h
  have hlen : read16LE (align s) = .ok (s.word16At 0) ((align s).pastBytes 2) := read16LE_eq h2
  have hnlen : ((align s).pastBytes 2).word16At 0 = s.word16At 2 := State.word16At_pastBytes h2 0
  rw [execStoredLen, hlen, Res.bind_ok, read16LE_withWork _ (by omega), Res.bind_ok, hnlen, State.pastBytes_pastBytes]
  rfl

/-- LEN and NLEN not whole: those bytes of them that are there have been read. -/
theorem execStoredLen_short {s : State} (h : s.bytesLeft < 4) :
    ∃ w, execStoredLen s = .next (State.enterStop .truncatedIn { (align s).pastBytes s.bytesLeft with work := w }) := by
  rcases Nat.lt_or_ge s.bytesLeft 2 with h2 | h2
  · exact ⟨s.work, by rw [execStoredLen, read16LE_stop (s := align s) h2]; rfl⟩
  · have hlen : read16LE (align s) = .ok (s.word16At 0) ((align s).pastBytes 2) := read16LE_eq (s := align s) h2
    have hleft : ((align s).pastBytes 2).bytesLeft = s.bytesLeft - 2 := (align s).bytesLeft_pastBytes h2
    refine ⟨{ s.work with storedLen := s.word16At 0 }, ?_⟩
    rw [execStoredLen, hlen, Res.bind_ok, read16LE_withWork_stop _ (by omega), hleft, State.pastBytes_pastBytes,
      Nat.add_sub_cancel' h2]
    rfl

/-! ### The stored body (R192) -/

theorem State.bytesLeft_atStoredData {s : State} (h : 4 ≤ s.bytesLeft) : s.atStoredData.bytesLeft = s.bytesLeft - 4 :=
  (align s).bytesLeft_pastBytes h

theorem State.copied_atStoredData {s : State} (h : 4 ≤ s.bytesLeft) (n : Nat) :
    s.atStoredData.copied n =
      { State.pushAll ((List.range n).map fun k => s.byteAt (4 + k)) ((align s).pastBytes (4 + n)) with
        work := { s.work with storedLen := s.word16At 0, storedNlen := s.word16At 2 } } := by
  have hbytes : s.atStoredData.inputBytes n = (List.range n).map fun k => s.byteAt (4 + k) :=
    State.inputBytes_pastBytes (s := align s) h n
  rw [State.copied, hbytes, ← (align s).pastBytes_pastBytes 4 n, ← State.pushAll_work]
  rfl

theorem State.afterBlock_copied_atStoredData (s : State) (n : Nat) :
    afterBlock (s.atStoredData.copied n).isFinal = afterBlock s.isFinal :=
  congrArg afterBlock (State.isFinal_pushAll _ _)

/-- Settles O25: past LEN and NLEN the copy has all its bytes and room for them. -/
theorem storedBodyIsCopied : Obligations.StoredBodyIsCopied := by
  intro s ho h4 hnlen hin hroom
  have hleft := State.bytesLeft_atStoredData h4
  have hcopy : copyStored (s.word16At 0).toNat s.atStoredData = .ok () (s.atStoredData.copied (s.word16At 0).toNat) :=
    copyStored_of_fits ho (by omega) hroom
  have hexec : exec .storedLen s = execStoredLen s := rfl
  rw [hexec, execStoredLen_eq h4, if_neg (not_not_intro hnlen), hcopy, Res.bind_ok, Res.finish_ok,
    State.afterBlock_copied_atStoredData, State.copied_atStoredData h4]
  rfl

/-- Settles O26: the words before the data, their check, and the copy are the places a stored body can stop. -/
theorem storedBodyStops : Obligations.StoredBodyStops := by
  intro s
  have hexec : exec .storedLen s = execStoredLen s := rfl
  rw [hexec]
  refine ⟨execStoredLen_short, fun h4 hnlen => ?_, fun ho h4 hnlen hin hroom => ?_, fun ho h4 hnlen hroom hin => ?_⟩
  · rw [execStoredLen_eq h4, if_pos hnlen]
    rfl
  · have hleft := State.bytesLeft_atStoredData h4
    have hcopy : copyStored (s.word16At 0).toNat s.atStoredData =
        .stop .truncatedIn (s.atStoredData.copied (s.bytesLeft - 4)) :=
      hleft ▸ copyStored_of_short ho (by omega) (hleft ▸ hroom)
    rw [execStoredLen_eq h4, if_neg (not_not_intro hnlen), hcopy, Res.bind_stop, Res.finish_stop,
      State.copied_atStoredData h4, Nat.add_sub_cancel' h4]
  · have hleft := State.bytesLeft_atStoredData h4
    have hcopy : copyStored (s.word16At 0).toNat s.atStoredData =
        .stop .truncatedOut ((s.atStoredData.copied s.room).pastBytes 1) :=
      copyStored_of_full (s := s.atStoredData) ho (hleft ▸ hin) hroom
    rw [execStoredLen_eq h4, if_neg (not_not_intro hnlen), hcopy, Res.bind_stop, Res.finish_stop,
      State.copied_atStoredData h4, ← (align s).pastBytes_pastBytes (4 + s.room) 1,
      State.pushAll_pastBytes _ ((align s).pastBytes _)]
    rfl

end Sys2Proof.Machine
end

section
/-! PROOFS. The table description (44_deflate_block.md, section 3): what each of its elements does with enough input and
with too little, and the frame of them all. -/
namespace Sys2Proof.Machine

/-! ### Fields at the bit cursor (R66, R126) -/

theorem State.field_pastBits {s : State} {m : Nat} (h : m ≤ s.bitsLeft) (k n : Nat) :
    (s.pastBits m).field k n = s.field (m + k) n := by
  induction m generalizing s k with
  | zero => rw [State.pastBits_zero, Nat.zero_add]
  | succ m ih =>
    have h1 : 1 ≤ s.bitsLeft := by omega
    have hleft := State.bitsLeft_pastBits_one h1
    rw [← State.pastBits_one_pastBits h, ih (by omega), State.field_pastBits_one h1, Nat.add_right_comm]

/-- The working registers are no part of the bits to come. -/
theorem State.field_withWork (s : State) (w : WorkRegs) (k n : Nat) :
    State.field { s with work := w } k n = s.field k n := by
  induction n generalizing k with
  | zero => rfl
  | succ n ih => exact congrArg ((s.bitAt k).toNat + 2 * ·) (ih (k + 1))

theorem State.pastBits_withWork (s : State) (w : WorkRegs) (n : Nat) :
    State.pastBits { s with work := w } n = { s.pastBits n with work := w } := by
  unfold State.pastBits
  split <;> rfl

/-- READ_BITS neither reads nor writes the working registers. -/
theorem readBits_withWork {n : Nat} {s : State} (w : WorkRegs) (h : n ≤ s.bitsLeft) :
    readBits n { s with work := w } = .ok (BitVec.ofNat 16 (s.field 0 n)) { s.pastBits n with work := w } := by
  rw [readBits_eq (s := { s with work := w }) h, State.field_withWork, State.pastBits_withWork]

/-- A field read after the first `m` bits to come. -/
theorem readBits_pastBits_withWork {m n : Nat} {s : State} (w : WorkRegs) (h : m + n ≤ s.bitsLeft) :
    readBits n { s.pastBits m with work := w } =
      .ok (BitVec.ofNat 16 (s.field m n)) { s.pastBits (m + n) with work := w } := by
  have hleft := State.bitsLeft_pastBits (s := s) (n := m) (by omega)
  rw [readBits_withWork w (by omega), State.field_pastBits (by omega), State.pastBits_pastBits h, Nat.add_zero]

/-! ### DYN_HDR (R196) -/

/-- What DYN_HDR leaves, with its three fields (R196). -/
def State.withCounts (s : State) : State :=
  { s.pastBits 14 with
    work :=
      { s.work with
        hlit := BitVec.ofNat 5 (s.field 0 5), hdist := BitVec.ofNat 5 (s.field 5 5)
        hclen := BitVec.ofNat 4 (s.field 10 4), ncodes := BitVec.ofNat 9 (s.field 0 5 + 257 + s.field 5 5 + 1) }
    lens := Memory.fill 19 0 0 s.lens, ci := 0, slot := .cll }

theorem execDynHdr_eq {s : State} (h : 14 ≤ s.bitsLeft) : execDynHdr s = .next s.withCounts := by
  have hlens : (s.pastBits 14).lens = s.lens := by rw [s.sameButCursor_pastBits 14]
  rw [execDynHdr, readBits_eq (by omega), Res.bind_ok, readBits_pastBits_withWork _ (by omega), Res.bind_ok,
    readBits_pastBits_withWork _ (by omega), Res.bind_ok]
  simp only [BitVec.setWidth_ofNat_of_le (show 5 ≤ 16 by decide), BitVec.setWidth_ofNat_of_le (show 4 ≤ 16 by decide),
    s.toNat_ofNat_field (show 5 ≤ 16 by decide), State.pastBits_work, hlens, Res.finish_ok]
  rfl

/-- A field after the first `m` bits to come, cut short. -/
theorem readBits_pastBits_withWork_cut {m n : Nat} {s : State} (w : WorkRegs) (hm : m ≤ s.bitsLeft)
    (h : s.bitsLeft < m + n) :
    ∃ u, readBits n { s.pastBits m with work := w } = .stop .truncatedIn u ∧ u.bitsLeft = 0 ∧
      State.SameButCursor { s with work := w } u := by
  have hleft := State.bitsLeft_pastBits hm
  obtain ⟨u, hu, h0, hframe⟩ := readBits_cut (n := n) (s := { s.pastBits m with work := w })
    (show (s.pastBits m).bitsLeft < n by omega)
  rw [s.sameButCursor_pastBits m] at hframe
  exact ⟨u, hu, h0, hframe⟩

/-- DYN_HDR with one of its fields cut short: those before it are written. -/
theorem execDynHdr_cut {s : State} (h : s.bitsLeft < 14) :
    ∃ u hlit hdist, execDynHdr s = .next (u.enterStop .truncatedIn) ∧ u.bitsLeft = 0 ∧
      State.SameButCursor { s with work := { s.work with hlit := hlit, hdist := hdist } } u := by
  rcases Nat.lt_or_ge s.bitsLeft 5 with h5 | h5
  · obtain ⟨u, hu, h0, hframe⟩ := readBits_cut h5
    exact ⟨u, s.work.hlit, s.work.hdist, by rw [execDynHdr, hu]; rfl, h0, hframe⟩
  rw [execDynHdr, readBits_eq h5, Res.bind_ok, State.pastBits_work]
  rcases Nat.lt_or_ge s.bitsLeft 10 with h10 | h10
  · obtain ⟨u, hu, h0, hframe⟩ := readBits_pastBits_withWork_cut (n := 5)
      { s.work with hlit := (BitVec.ofNat 16 (s.field 0 5)).setWidth 5 } h5 h10
    exact ⟨u, _, s.work.hdist, by rw [hu]; rfl, h0, hframe⟩
  rw [readBits_pastBits_withWork _ h10, Res.bind_ok]
  obtain ⟨u, hu, h0, hframe⟩ := readBits_pastBits_withWork_cut (n := 4)
    { s.work with
      hlit := (BitVec.ofNat 16 (s.field 0 5)).setWidth 5, hdist := (BitVec.ofNat 16 (s.field 5 5)).setWidth 5 } h10 h
  exact ⟨u, _, _, by rw [hu]; rfl, h0, hframe⟩

/-- Settles O27: three fields of 14 bits, and the zeroing is a fill. -/
theorem dynamicHeaderReadsThreeCounts : Obligations.DynamicHeaderReadsThreeCounts := by
  refine fun s => ⟨fun h => ⟨_, execDynHdr_eq h, fun k => ?_⟩, fun h => ?_⟩
  · rw [Memory.get?_fill]
    simp
  · obtain ⟨u, _, _, hu, h0, -⟩ := execDynHdr_cut h
    exact ⟨_, hu, rfl, rfl, rfl, rfl, h0⟩

/-! ### CLL (R197, R198) -/

theorem perm_eq : ∀ i : Fin 19,
    [16, 17, 18, 0, 8, 7, 9, 6, 10, 5, 11, 4, 12, 3, 13, 2, 14, 1, 15].getD i.val 0 = perm i := by decide

theorem State.codeLens_zero (s : State) (n : Nat) : s.codeLens 0 n = (List.range n).map s.codeLen := by
  rw [State.codeLens, List.range_eq_range']

theorem State.codeLen_setCodeLen (s : State) (i k : Nat) (v : BitVec 4) :
    (s.setCodeLen i v).codeLen k = if k = i then v else s.codeLen k := by
  simp only [State.codeLen, State.setCodeLen_lens, State.setCodeLen_session, Memory.get?_set]
  split <;> rfl

/-- The state once the next code-length code length has been read and written (R197). -/
def State.withField (s : State) : State := (s.pastBits 3).setCodeLen (perm s.ci) (BitVec.ofNat 4 (s.field 0 3))

/-- What a field leaves, in terms of the state before it. -/
theorem State.withField_eq (s : State) :
    s.withField = { s.pastBits 3 with lens := Memory.set s.lens (perm s.ci) (BitVec.ofNat 4 (s.field 0 3)) } := by
  rw [State.withField, s.sameButCursor_pastBits 3]
  rfl

theorem State.codeLens_withField (s : State) (n : Nat) :
    s.withField.codeLens 0 n =
      (List.range n).map fun k => if k = perm s.ci then BitVec.ofNat 4 (s.field 0 3) else s.codeLen k := by
  rw [State.codeLens_zero]
  refine List.map_congr_left fun k _ => ?_
  rw [State.withField, State.codeLen_setCodeLen, s.sameButCursor_pastBits 3]
  rfl

theorem State.withField_counters (s : State) : s.withField.ci = s.ci ∧ s.withField.work = s.work := by
  rw [State.withField_eq, s.sameButCursor_pastBits 3]
  exact ⟨rfl, rfl⟩

/-- CLL with its three bits: the next field, or after the last one the sequence (R197, R198). -/
theorem execCll_eq {s : State} (h : 3 ≤ s.bitsLeft) :
    execCll s = .next
      (if s.ci.val + 1 < s.work.hclen.toNat + 4 then { s.withField with ci := s.ci + 1, slot := .cll }
        else s.withField.startCodeLengths) := by
  have hfield : (s.pastBits 3).setCodeLen (perm (s.pastBits 3).ci) ((BitVec.ofNat 16 (s.field 0 3)).setWidth 4) =
      s.withField := by
    rw [BitVec.setWidth_ofNat_of_le (by decide), State.withField, s.sameButCursor_pastBits 3]
  obtain ⟨hci, hwork⟩ := s.withField_counters
  rw [execCll, readBits_eq h, Res.bind_ok]
  dsimp only
  rw [hfield, ← hwork, ← hci]
  split <;> rfl

/-- The sequence of code lengths starts with a symbol unless it is empty (R199). -/
theorem State.startCodeLengths_eq {s : State} (h : s.work.ncodes ≠ 0) :
    s.startCodeLengths =
      { s with ct := build (s.codeLens 0 19), work := { s.work with li := 0 }, ci := 0, slot := .clSymbol } :=
  if_pos ((BitVec.pos_iff_ne_zero _).2 h)

/-- CLL with its three bits cut short. -/
theorem execCll_cut {s : State} (h : s.bitsLeft < 3) :
    ∃ u, execCll s = .next (u.enterStop .truncatedIn) ∧ u.bitsLeft = 0 ∧ s.SameButCursor u := by
  obtain ⟨u, hu, h0, hframe⟩ := readBits_cut h
  exact ⟨u, by rw [execCll, hu]; rfl, h0, hframe⟩

/-- Settles O28: a field is written at its place in PERM, and the last one starts the sequence. -/
theorem codeLengthFieldsFollowThePermutation : Obligations.CodeLengthFieldsFollowThePermutation := by
  intro s
  simp only [perm_eq]
  refine ⟨fun h hmore => ?_, fun h hlast hn => ?_, fun h => ?_⟩
  · exact (execCll_eq h).trans (by rw [if_pos hmore, State.withField_eq])
  · obtain ⟨-, hwork⟩ := s.withField_counters
    refine (execCll_eq h).trans ?_
    rw [if_neg (Nat.not_lt_of_le hlast), State.startCodeLengths_eq (hwork ▸ hn), State.codeLens_withField, hwork,
      State.withField_eq]
  · obtain ⟨u, hu, h0, -⟩ := execCll_cut h
    exact ⟨_, hu, rfl, rfl, rfl, rfl, h0⟩

/-! ### The code-length symbols (R199 to R203) -/

/-- Settles O29: CL_LIT appends one code length. -/
theorem codeLengthSymbolIsOneLength : Obligations.CodeLengthSymbolIsOneLength := fun s sym _ hli =>
  ⟨_, rfl, s.codeLengthsAdded 1 (sym.setWidth 4) hli⟩

/-- Past the extra bits of a repeat, its count latched. -/
def State.withRep (s : State) (n rep : Nat) : State :=
  { s.pastBits n with work := { s.work with rep := BitVec.ofNat 8 rep } }

theorem repeatLen_eq {base n : Nat} {s : State} (v : BitVec 4) (hn : n ≤ 16) (h : n ≤ s.bitsLeft) :
    repeatLen base n v s =
      if s.work.ncodes.toNat < s.work.li.toNat + (base + s.field 0 n) then
        .stop .codeLengthOverrun (s.withRep n (base + s.field 0 n))
      else .ok () ((s.withRep n (base + s.field 0 n)).pushCodeLens (base + s.field 0 n) v).nextCodeLength := by
  rw [repeatLen, readBased_of_le hn h, Res.bind_ok]
  simp only [State.pastBits_work]
  rfl

/-- A repeat that fits. -/
theorem repeatLen_of_fits {base n : Nat} {s : State} (v : BitVec 4) (hn : n ≤ 16) (h : n ≤ s.bitsLeft)
    (hfits : s.work.li.toNat + (base + s.field 0 n) ≤ s.work.ncodes.toNat) :
    ∃ t, (repeatLen base n v s).finish = .next t ∧
      (s.withRep n (base + s.field 0 n)).CodeLengthsAdded t (base + s.field 0 n) v := by
  rw [repeatLen_eq v hn h, if_neg (Nat.not_lt_of_le hfits)]
  exact ⟨_, rfl, State.codeLengthsAdded _ _ v hfits⟩

/-- A repeat that runs past `ncodes`. -/
theorem repeatLen_of_overrun {base n : Nat} {s : State} (v : BitVec 4) (hn : n ≤ 16) (h : n ≤ s.bitsLeft)
    (hover : s.work.ncodes.toNat < s.work.li.toNat + (base + s.field 0 n)) :
    (repeatLen base n v s).finish = .next ((s.withRep n (base + s.field 0 n)).enterStop .codeLengthOverrun) := by
  rw [repeatLen_eq v hn h, if_pos hover, Res.finish_stop]

theorem execClRep16_of_first {s : State} (h : s.work.li = 0) :
    execClRep16 s = .next (s.enterStop .repeatWithoutPrevious) := by
  rw [execClRep16, if_pos h, Res.finish_stop]

theorem execClRep16_of_previous {s : State} (h : s.work.li ≠ 0) :
    execClRep16 s = (repeatLen 3 2 (s.codeLen (s.work.li.toNat - 1)) s).finish := by
  rw [execClRep16, if_neg h]

/-- Settles O30: each symbol is a repeat of its own base and width. -/
theorem repeatsAppendTheirCount : Obligations.RepeatsAppendTheirCount := by
  refine fun s => ⟨fun h hli hfits => ?_, repeatLen_of_fits 0 (by decide), repeatLen_of_fits 0 (by decide)⟩
  obtain ⟨t, ht, hadded⟩ := repeatLen_of_fits (s.codeLen (s.work.li.toNat - 1)) (by decide) h hfits
  exact ⟨t, (execClRep16_of_previous hli).trans ht, hadded⟩

/-- Settles O31: the missing previous length is seen before the extra bits, the overrun after them. -/
theorem repeatsStop : Obligations.RepeatsStop := by
  refine fun s => ⟨execClRep16_of_first, fun hli h => ?_, finish_bind_readBased_stop _, finish_bind_readBased_stop _,
    fun h hli hover => ?_, repeatLen_of_overrun 0 (by decide), repeatLen_of_overrun 0 (by decide)⟩
  · obtain ⟨t, ht, hstop⟩ := finish_bind_readBased_stop (base := 3) _ h
    exact ⟨t, (execClRep16_of_previous hli).trans ht, hstop⟩
  · exact (execClRep16_of_previous hli).trans (repeatLen_of_overrun _ (by decide) h hover)

/-! ### What the table description leaves unchanged (R196 to R204) -/

/-- `u` is `s` but for what DYN_HDR writes. -/
abbrev State.SameButCounts (s u : State) : Prop :=
  u = { s with
    inPos := u.inPos, bitbuf := u.bitbuf, bitcnt := u.bitcnt, lens := u.lens, ci := u.ci, slot := u.slot
    work := { s.work with hlit := u.work.hlit, hdist := u.work.hdist, hclen := u.work.hclen, ncodes := u.work.ncodes } }

/-- `u` is `s` but for what CLL and the start of the sequence write. -/
abbrev State.SameButFields (s u : State) : Prop :=
  u = { s with
    inPos := u.inPos, bitbuf := u.bitbuf, bitcnt := u.bitcnt, lens := u.lens, ci := u.ci, slot := u.slot, ct := u.ct
    work := { s.work with li := u.work.li }
    lt := u.lt, dt := u.dt, actLt := u.actLt, actDt := u.actDt, phase := u.phase, phasesHeld := u.phasesHeld }

/-- `u` is `s` but for what a code-length symbol and the end of the sequence write. -/
abbrev State.SameButSequence (s u : State) : Prop :=
  u = { s with
    inPos := u.inPos, bitbuf := u.bitbuf, bitcnt := u.bitcnt, lens := u.lens, slot := u.slot
    work := { s.work with li := u.work.li, rep := u.work.rep }
    lt := u.lt, dt := u.dt, actLt := u.actLt, actDt := u.actDt, phase := u.phase, phasesHeld := u.phasesHeld }

/-- An element answers `u`, or stops there (R252). -/
def State.EndsIn (u : State) (o : Host.Outcome State Fault Refusal) : Prop :=
  o = .next u ∨ ∃ r, o = .next (u.enterStop r)

theorem execDynHdr_endsIn (s : State) : ∃ u, s.SameButCounts u ∧ u.EndsIn (execDynHdr s) := by
  rcases Nat.lt_or_ge s.bitsLeft 14 with h | h
  · obtain ⟨u, hlit, hdist, hu, -, hframe⟩ := execDynHdr_cut h
    exact ⟨u, by rw [hframe], .inr ⟨_, hu⟩⟩
  · refine ⟨s.withCounts, ?_, .inl (execDynHdr_eq h)⟩
    rw [State.withCounts, s.sameButCursor_pastBits 14]

theorem State.nextCodeLength_frame (s : State) :
    s.nextCodeLength =
      { s with
        slot := s.nextCodeLength.slot, lt := s.nextCodeLength.lt, dt := s.nextCodeLength.dt
        actLt := s.nextCodeLength.actLt, actDt := s.nextCodeLength.actDt, phase := s.nextCodeLength.phase
        phasesHeld := s.nextCodeLength.phasesHeld } := by
  unfold State.nextCodeLength
  split <;> rfl

theorem State.startCodeLengths_frame (s : State) : s.SameButFields s.startCodeLengths := by
  rw [State.startCodeLengths, State.nextCodeLength_frame]

theorem execCll_endsIn (s : State) : ∃ u, s.SameButFields u ∧ u.EndsIn (execCll s) := by
  rcases Nat.lt_or_ge s.bitsLeft 3 with h | h
  · obtain ⟨u, hu, -, hframe⟩ := execCll_cut h
    exact ⟨u, by rw [hframe], .inr ⟨_, hu⟩⟩
  · refine ⟨_, ?_, .inl (execCll_eq h)⟩
    have hframe := s.withField_eq
    rw [s.sameButCursor_pastBits 3] at hframe
    split
    · rw [hframe]
    · rw [State.startCodeLengths_frame s.withField, hframe]

theorem pushCodeLens_sameButSequence (n : Nat) (v : BitVec 4) (s : State) :
    s.SameButSequence (s.pushCodeLens n v).nextCodeLength := by
  rw [State.nextCodeLength_frame]
  rfl

theorem repeatLen_endsIn {base n : Nat} (s : State) (v : BitVec 4) (hn : n ≤ 16) :
    ∃ u, s.SameButSequence u ∧ u.EndsIn (repeatLen base n v s).finish := by
  rcases Nat.lt_or_ge s.bitsLeft n with h | h
  · obtain ⟨u, hu, -, hframe⟩ := readBits_cut h
    exact ⟨u, by rw [hframe], .inr ⟨_, by rw [repeatLen, readBased, hu]; rfl⟩⟩
  · rw [repeatLen_eq v hn h]
    split
    · exact ⟨_, by rw [State.withRep, s.sameButCursor_pastBits n], .inr ⟨_, rfl⟩⟩
    · refine ⟨_, ?_, .inl rfl⟩
      rw [pushCodeLens_sameButSequence, State.withRep, s.sameButCursor_pastBits n]

theorem execClRep16_endsIn (s : State) : ∃ u, s.SameButSequence u ∧ u.EndsIn (execClRep16 s) := by
  by_cases h : s.work.li = 0
  · exact ⟨s, rfl, .inr ⟨_, execClRep16_of_first h⟩⟩
  · rw [execClRep16_of_previous h]
    exact repeatLen_endsIn s _ (by decide)

theorem exec_codeLengthSymbol_endsIn {i : Instr} {sym : Sym}
    (hi : i ∈ [Instr.clLit sym, .clRep16, .clZero17, .clZero18]) (s : State) :
    ∃ u, s.SameButSequence u ∧ u.EndsIn (exec i s) := by
  simp only [List.mem_cons, List.not_mem_nil, or_false] at hi
  rcases hi with rfl | rfl | rfl | rfl
  · exact ⟨_, pushCodeLens_sameButSequence 1 _ s, .inl rfl⟩
  · exact execClRep16_endsIn s
  · exact repeatLen_endsIn s 0 (by decide)
  · exact repeatLen_endsIn s 0 (by decide)

/-- From where an element goes on or stops, only stop entry differs. -/
theorem State.EndsIn.frame {i : Instr} {s t u : State} (hu : u.EndsIn (exec i s)) (h : exec i s = .next t) :
    t = { u with
      state := t.state, cls := t.cls, kind := t.kind, detail := t.detail, mem := t.mem, lost := t.lost } := by
  rcases hu with hu | ⟨r, hu⟩ <;> injection h.symm.trans hu with h <;> rw [h]
  rfl

/-- An element that has written no host memory leaves it, unless it stops (R77, R255). -/
theorem State.EndsIn.memoryKept {i : Instr} {s t u : State} (hu : u.EndsIn (exec i s)) (h : exec i s = .next t)
    (hmem : u.mem = s.mem) (hlost : u.lost = s.lost) : s.MemoryKept t := by
  refine ⟨fun hf a => ?_, exec_keptOutside h⟩
  rcases hu with hu | ⟨r, hu⟩ <;> injection h.symm.trans hu with h
  · rw [h, State.hostByte, hmem, hlost, State.hostByte]
  · exact absurd (congrArg State.state h) hf

/-- Settles O40: each element ends in a state its own frame describes, or stops there. -/
theorem tableDescriptionFrame : Obligations.TableDescriptionFrame := by
  refine fun s t => ⟨fun h => ?_, fun h => ?_, fun i sym hi h => ?_⟩
  · obtain ⟨u, hframe, hu⟩ := execDynHdr_endsIn s
    exact ⟨by rw [hu.frame h, hframe], hu.memoryKept h (by rw [hframe]) (by rw [hframe])⟩
  · obtain ⟨u, hframe, hu⟩ := execCll_endsIn s
    exact ⟨by rw [hu.frame h, hframe], hu.memoryKept h (by rw [hframe]) (by rw [hframe])⟩
  · obtain ⟨u, hframe, hu⟩ := exec_codeLengthSymbol_endsIn hi s
    exact ⟨by rw [hu.frame h, hframe], hu.memoryKept h (by rw [hframe]) (by rw [hframe])⟩

end Sys2Proof.Machine
end

section
/-! PROOFS. The state machine of a session (44_deflate_block.md R205): what makes a state one a session can stand in, by
the kind of its slot, that the fetch leaves such a state at the slot of the element it answers, and that each element and
each move of the host leads to such a state again. -/
namespace Sys2Proof.Machine

variable {α : Type}

/-! ### Where a session can stand, by the kind of slot (R35, R205) -/

theorem State.controlOk_of_not_busy {s : State} (h : s.state ≠ .busy) : s.ControlOk where
  phase hb := absurd hb h
  phaseHeld hb := absurd hb h
  codeLengthTable hb := absurd hb h
  litTable hb := absurd hb h
  distTable hb := absurd hb h
  codeLengths hb := absurd hb h
  fieldIndex hb := absurd hb h
  index hb := absurd hb h
  matchLen hb := absurd hb h

/-- A session is in phase `p`, which is recorded as held (R35, R41). -/
structure State.InPhase (s : State) (p : Phase) : Prop where
  phase : s.phase = p
  held : s.phase ∈ s.phasesHeld

theorem State.inPhase_setPhase (s : State) (p : Phase) : (s.setPhase p).InPhase p :=
  ⟨rfl, (s.mem_phasesHeld_setPhase p p).2 (.inl rfl)⟩

/-- The slot fits phase `p`, and its element needs no table and no counter. -/
def plainIn (p : Phase) (slot : Slot) : Bool :=
  phaseFits slot p && decide (slot ∉ [Slot.cll, .clSymbol, .litLen, .dist])

theorem State.controlOk_of_plain {s : State} {p : Phase} (hp : s.InPhase p) (hs : plainIn p s.slot = true) :
    s.ControlOk := by
  simp only [plainIn, Bool.and_eq_true, decide_eq_true_iff, List.mem_cons, List.not_mem_nil, or_false,
    not_or] at hs
  obtain ⟨hfits, hcll, hsym, hlit, hdist⟩ := hs
  exact {
    phase := fun _ => hp.phase ▸ hfits
    phaseHeld := fun _ => hp.held
    codeLengthTable := fun _ h => absurd h hsym
    litTable := fun _ h => absurd h (not_or.2 ⟨hlit, hdist⟩)
    distTable := fun _ h => absurd h (not_or.2 ⟨hlit, hdist⟩)
    codeLengths := fun _ h => absurd h (not_or.2 ⟨hcll, hsym⟩)
    fieldIndex := fun _ h => absurd h hcll
    index := fun _ h => absurd h hsym
    matchLen := fun _ h => absurd h hdist }

/-- A table description is under way (R194, R196). -/
structure State.InDescription (s : State) : Prop where
  inPhase : s.InPhase .dynTables
  codeLengths : s.work.ncodes.toNat = s.work.hlit.toNat + 257 + s.work.hdist.toNat + 1

theorem State.InDescription.controlOk_cll {s : State} (h : s.InDescription) (hs : s.slot = .cll)
    (hci : s.ci.val < s.work.hclen.toNat + 4) : s.ControlOk where
  phase _ := by rw [hs, h.inPhase.phase]; rfl
  phaseHeld _ := h.inPhase.held
  codeLengthTable _ h' := nomatch hs.symm.trans h'
  litTable _ h' := h'.elim (nomatch hs.symm.trans ·) (nomatch hs.symm.trans ·)
  distTable _ h' := h'.elim (nomatch hs.symm.trans ·) (nomatch hs.symm.trans ·)
  codeLengths _ _ := h.codeLengths
  fieldIndex _ _ := hci
  index _ h' := nomatch hs.symm.trans h'
  matchLen _ h' := nomatch hs.symm.trans h'

theorem State.InDescription.controlOk_clSymbol {s : State} (h : s.InDescription) (hs : s.slot = .clSymbol)
    (hct : s.ct.Ok 19) (hli : s.work.li < s.work.ncodes) : s.ControlOk where
  phase _ := by rw [hs, h.inPhase.phase]; rfl
  phaseHeld _ := h.inPhase.held
  codeLengthTable _ _ := hct
  litTable _ h' := h'.elim (nomatch hs.symm.trans ·) (nomatch hs.symm.trans ·)
  distTable _ h' := h'.elim (nomatch hs.symm.trans ·) (nomatch hs.symm.trans ·)
  codeLengths _ _ := h.codeLengths
  fieldIndex _ h' := nomatch hs.symm.trans h'
  index _ _ := hli
  matchLen _ h' := nomatch hs.symm.trans h'

/-- The expander is running, against built tables (R170). -/
structure State.InExpander (s : State) : Prop where
  inPhase : s.InPhase .huffman
  litTable : s.litTable.Ok 288
  distTable : s.distTable.Ok 32

theorem State.InExpander.controlOk_litLen {s : State} (h : s.InExpander) (hs : s.slot = .litLen) : s.ControlOk where
  phase _ := by rw [hs, h.inPhase.phase]; rfl
  phaseHeld _ := h.inPhase.held
  codeLengthTable _ h' := nomatch hs.symm.trans h'
  litTable _ _ := h.litTable
  distTable _ _ := h.distTable
  codeLengths _ h' := h'.elim (nomatch hs.symm.trans ·) (nomatch hs.symm.trans ·)
  fieldIndex _ h' := nomatch hs.symm.trans h'
  index _ h' := nomatch hs.symm.trans h'
  matchLen _ h' := nomatch hs.symm.trans h'

theorem State.InExpander.controlOk_dist {s : State} (h : s.InExpander) (hs : s.slot = .dist)
    (hlen : 3 ≤ s.work.matchLen.toNat ∧ s.work.matchLen.toNat ≤ 258) : s.ControlOk where
  phase _ := by rw [hs, h.inPhase.phase]; rfl
  phaseHeld _ := h.inPhase.held
  codeLengthTable _ h' := nomatch hs.symm.trans h'
  litTable _ _ := h.litTable
  distTable _ _ := h.distTable
  codeLengths _ h' := h'.elim (nomatch hs.symm.trans ·) (nomatch hs.symm.trans ·)
  fieldIndex _ h' := nomatch hs.symm.trans h'
  index _ h' := nomatch hs.symm.trans h'
  matchLen _ _ := hlen

/-! ### Tables of BUILD are built tables (R140, R145) -/

theorem build_ok {lens : List (BitVec 4)} {m : Nat} (hlen : lens.length ≤ m) (hm : m ≤ 288) : (build lens).Ok m where
  zero := count_build_zero lens
  total := by
    rw [Table.sum_counts, count_build_zero, Nat.zero_add, countFrom_build (hlen.trans hm) le_rfl]
    rfl
  inRange y hy := ((mem_symbols_build (hlen.trans hm)).1 hy).1.trans_le hlen

theorem length_fixedLitLens : fixedLitLens.length = 288 := by
  simp only [fixedLitLens, List.length_append, List.length_replicate]

theorem fixedLit_ok : Table.fixedLit.Ok 288 := fixedLit_is_build ▸ build_ok length_fixedLitLens.le le_rfl

theorem fixedDist_ok : Table.fixedDist.Ok 32 := fixedDist_is_build ▸ build_ok (by decide) (by decide)

@[simp] theorem State.length_codeLens (s : State) (a n : Nat) : (s.codeLens a n).length = n := by
  rw [State.codeLens, List.length_map, List.length_range']

/-! ### The start of the expander and the end of the table description (R170, R199, R204) -/

theorem State.controlOk_startExpand {s : State} {sel : TableSel} (hlit : (s.startExpand sel).litTable.Ok 288)
    (hdist : (s.startExpand sel).distTable.Ok 32) : (s.startExpand sel).ControlOk := by
  obtain ⟨hphase, hheld⟩ := s.inPhase_setPhase .huffman
  exact State.InExpander.controlOk_litLen ⟨⟨hphase, hheld⟩, hlit, hdist⟩ rfl

theorem State.controlOk_buildTables (s : State) : s.buildTables.ControlOk := by
  have hhlit := s.work.hlit.isLt
  have hhdist := s.work.hdist.isLt
  refine State.controlOk_startExpand (build_ok ?_ le_rfl) (build_ok ?_ (by decide)) <;> rw [State.length_codeLens] <;>
    omega

/-- Another code length, or the tables (R199). -/
theorem State.InDescription.controlOk_nextCodeLength {s : State} (h : s.InDescription) (hct : s.ct.Ok 19) :
    s.nextCodeLength.ControlOk := by
  unfold State.nextCodeLength
  split
  · rename_i hli
    exact State.InDescription.controlOk_clSymbol ⟨⟨h.inPhase.phase, h.inPhase.held⟩, h.codeLengths⟩ rfl hct hli
  · exact s.controlOk_buildTables

theorem State.InDescription.controlOk_pushCodeLens {s : State} (h : s.InDescription) (hct : s.ct.Ok 19) (n : Nat)
    (v : BitVec 4) : (s.pushCodeLens n v).nextCodeLength.ControlOk :=
  State.InDescription.controlOk_nextCodeLength (s := s.pushCodeLens n v)
    ⟨⟨h.inPhase.phase, h.inPhase.held⟩, h.codeLengths⟩ hct

theorem State.InDescription.controlOk_startCodeLengths {s : State} (h : s.InDescription) :
    s.startCodeLengths.ControlOk :=
  State.InDescription.controlOk_nextCodeLength
    (s := { s with ct := build (s.codeLens 0 19), work := { s.work with li := 0 }, ci := 0 })
    ⟨⟨h.inPhase.phase, h.inPhase.held⟩, h.codeLengths⟩ (build_ok (s.length_codeLens 0 19).le (by decide))

/-! ### Where a state that keeps the invariant stands -/

/-- At every slot but a block header's and the trailer's the phase is one, that of the slot. -/
theorem eq_slotPhase_of_phaseFits {slot : Slot} {p : Phase} (hslot : slot ∉ [Slot.blockHeader, .trailer])
    (h : phaseFits slot p = true) : p = slotPhase slot := by
  cases slot <;> simp_all [phaseFits, slotPhase]

theorem State.ControlOk.inPhase {s : State} {slot : Slot} (hs : s.ControlOk) (hb : s.state = .busy)
    (hslot : s.slot = slot) (hone : slot ∉ [Slot.blockHeader, .trailer]) : s.InPhase (slotPhase slot) :=
  ⟨eq_slotPhase_of_phaseFits hone (hslot ▸ hs.phase hb), hs.phaseHeld hb⟩

theorem State.ControlOk.inDescription_of_cll {s : State} (hs : s.ControlOk) (hb : s.state = .busy)
    (hslot : s.slot = .cll) : s.InDescription :=
  ⟨hs.inPhase hb hslot (by decide), hs.codeLengths hb (.inl hslot)⟩

theorem State.ControlOk.inDescription_of_clSymbol {s : State} (hs : s.ControlOk) (hb : s.state = .busy)
    (hslot : s.slot = .clSymbol) : s.InDescription :=
  ⟨hs.inPhase hb hslot (by decide), hs.codeLengths hb (.inr hslot)⟩

theorem State.ControlOk.inExpander_of_litLen {s : State} (hs : s.ControlOk) (hb : s.state = .busy)
    (hslot : s.slot = .litLen) : s.InExpander :=
  ⟨hs.inPhase hb hslot (by decide), hs.litTable hb (.inl hslot), hs.distTable hb (.inl hslot)⟩

theorem State.ControlOk.inExpander_of_dist {s : State} (hs : s.ControlOk) (hb : s.state = .busy)
    (hslot : s.slot = .dist) : s.InExpander :=
  ⟨hs.inPhase hb hslot (by decide), hs.litTable hb (.inr hslot), hs.distTable hb (.inr hslot)⟩

/-! ### Elements in sequence -/

/-- `t` is `s` but for the input cursor, the ring and the output. -/
inductive State.SameButStream (s : State) : State → Prop where
  | intro (inPos : Word) (bitbuf : Byte) (bitcnt : BitVec 4) (ring : Store Byte) (wcur : BitVec 15)
      (emitted : BitVec 16) (outPos : Word) (mem : Store Byte) :
      s.SameButStream { s with
        inPos := inPos, bitbuf := bitbuf, bitcnt := bitcnt, ring := ring, wcur := wcur, emitted := emitted
        outPos := outPos, mem := mem }

theorem State.SameButCursor.sameButStream {s t : State} (h : s.SameButCursor t) : s.SameButStream t := by
  rw [h]
  exact .intro ..

theorem State.Emits.sameButStream {s t : State} {n : Nat} (h : s.Emits n t) : s.SameButStream t := by
  rw [h.frame]
  exact .intro ..

/-- The outcome, where it is a next state, follows the state machine. -/
def OutcomeControlOk (o : Host.Outcome State Fault Refusal) : Prop := ∀ t, o = .next t → t.ControlOk

theorem OutcomeControlOk.next {s : State} (hs : s.ControlOk) : OutcomeControlOk (.next s) := by
  rintro _ ⟨⟩
  exact hs

/-- A stopped core follows it in any state (R252). -/
theorem OutcomeControlOk.stop (s : State) (r : Stop) : OutcomeControlOk (.next (s.enterStop r)) :=
  .next (State.controlOk_of_not_busy nofun)

/-- An operation on the input or the output comes first: what follows has to follow the state machine from the states it
can leave. -/
theorem OutcomeControlOk.bind {x : Res α} {f : α → State → Res Unit} {s : State} (hx : s.SameButStream x.state)
    (hf : ∀ a t, x = .ok a t → s.SameButStream t → OutcomeControlOk (f a t).finish) :
    OutcomeControlOk (x.bind f).finish := by
  cases x with
  | ok a t => exact hf a t rfl hx
  | stop r t => exact .stop t r

/-! ### The container's elements (R220 to R228) -/

theorem plainIn_afterComment (flg : Byte) : plainIn .gzHeader (afterComment flg) = true := by
  unfold afterComment
  split <;> rfl

theorem plainIn_afterName (flg : Byte) : plainIn .gzHeader (afterName flg) = true := by
  unfold afterName
  split
  · rfl
  · exact plainIn_afterComment flg

theorem plainIn_afterExtra (flg : Byte) : plainIn .gzHeader (afterExtra flg) = true := by
  unfold afterExtra
  split
  · rfl
  · exact plainIn_afterName flg

theorem plainIn_afterFixed (flg : Byte) : plainIn .gzHeader (afterFixed flg) = true := by
  unfold afterFixed
  split
  · rfl
  · exact plainIn_afterExtra flg

section
variable {s : State} (hp : s.InPhase .gzHeader)
include hp

theorem execMagic_controlOk : OutcomeControlOk (execMagic s) := by
  obtain ⟨hphase, hheld⟩ := hp
  refine .bind (readByte_sameButCursor s).sameButStream ?_
  rintro id1 _ - ⟨⟩
  split
  · exact .stop _ _
  refine .bind (readByte_sameButCursor _).sameButStream ?_
  rintro id2 _ - ⟨⟩
  split
  · exact .stop _ _
  · exact .next (State.controlOk_of_plain ⟨hphase, hheld⟩ rfl)

theorem execMethod_controlOk : OutcomeControlOk (execMethod s) := by
  obtain ⟨hphase, hheld⟩ := hp
  refine .bind (readByte_sameButCursor s).sameButStream ?_
  rintro cm _ - ⟨⟩
  split
  · exact .stop _ _
  · exact .next (State.controlOk_of_plain ⟨hphase, hheld⟩ rfl)

theorem execFlags_controlOk : OutcomeControlOk (execFlags s) := by
  obtain ⟨hphase, hheld⟩ := hp
  refine .bind (readByte_sameButCursor s).sameButStream ?_
  rintro flg _ - ⟨⟩
  exact .next (State.controlOk_of_plain ⟨hphase, hheld⟩ rfl)

theorem execSkipFixed_controlOk : OutcomeControlOk (execSkipFixed s) := by
  obtain ⟨hphase, hheld⟩ := hp
  refine .bind (read32LE_sameButCursor s).sameButStream ?_
  rintro _ _ - ⟨⟩
  refine .bind (readByte_sameButCursor _).sameButStream ?_
  rintro _ _ - ⟨⟩
  refine .bind (readByte_sameButCursor _).sameButStream ?_
  rintro _ _ - ⟨⟩
  exact .next (State.controlOk_of_plain ⟨hphase, hheld⟩ (plainIn_afterFixed _))

theorem execExtra_controlOk : OutcomeControlOk (execExtra s) := by
  obtain ⟨hphase, hheld⟩ := hp
  refine .bind (read16LE_sameButCursor s).sameButStream ?_
  rintro xlen _ - ⟨⟩
  refine .bind (skipBytes_sameButCursor _ _).sameButStream ?_
  rintro _ _ - ⟨⟩
  exact .next (State.controlOk_of_plain ⟨hphase, hheld⟩ (plainIn_afterExtra _))

theorem execName_controlOk : OutcomeControlOk (execName s) := by
  obtain ⟨hphase, hheld⟩ := hp
  refine .bind (skipZeroTerminated_sameButCursor s).sameButStream ?_
  rintro _ _ - ⟨⟩
  exact .next (State.controlOk_of_plain ⟨hphase, hheld⟩ (plainIn_afterName _))

theorem execComment_controlOk : OutcomeControlOk (execComment s) := by
  obtain ⟨hphase, hheld⟩ := hp
  refine .bind (skipZeroTerminated_sameButCursor s).sameButStream ?_
  rintro _ _ - ⟨⟩
  exact .next (State.controlOk_of_plain ⟨hphase, hheld⟩ (plainIn_afterComment _))

theorem execHcrc_controlOk : OutcomeControlOk (execHcrc s) := by
  obtain ⟨hphase, hheld⟩ := hp
  refine .bind (read16LE_sameButCursor s).sameButStream ?_
  rintro _ _ - ⟨⟩
  exact .next (State.controlOk_of_plain ⟨hphase, hheld⟩ rfl)

end

/-- TRAILER stops or ends the session. -/
theorem execTrailer_controlOk (s : State) : OutcomeControlOk (execTrailer s) := by
  intro t h
  rcases execTrailer_next h with ⟨r, u, rfl⟩ | ⟨u, rfl⟩ <;> exact State.controlOk_of_not_busy nofun

/-! ### The blocks (R191 to R195) -/

theorem plainIn_afterBlock {p : Phase} (hp : p = .stored ∨ p = .huffman) (f : BitVec 1) :
    plainIn p (afterBlock f) = true := by
  unfold afterBlock
  rcases hp with rfl | rfl <;> split <;> rfl

theorem execBlockStored_controlOk (f : BitVec 1) (s : State) : OutcomeControlOk (execBlockStored f s) := by
  obtain ⟨hphase, hheld⟩ := (s.setBlock f 0).inPhase_setPhase .stored
  exact .next (State.controlOk_of_plain ⟨hphase, hheld⟩ rfl)

theorem execBlockFixed_controlOk (f : BitVec 1) (s : State) : OutcomeControlOk (execBlockFixed f s) :=
  .next (State.controlOk_startExpand fixedLit_ok fixedDist_ok)

theorem execBlockDynamic_controlOk (f : BitVec 1) (s : State) : OutcomeControlOk (execBlockDynamic f s) := by
  obtain ⟨hphase, hheld⟩ := (s.setBlock f 2).inPhase_setPhase .dynTables
  exact .next (State.controlOk_of_plain ⟨hphase, hheld⟩ rfl)

theorem execStoredLen_controlOk {s : State} (hp : s.InPhase .stored) : OutcomeControlOk (execStoredLen s) := by
  obtain ⟨hphase, hheld⟩ := hp
  refine .bind (read16LE_sameButCursor (align s)).sameButStream ?_
  rintro len _ - ⟨⟩
  refine .bind (read16LE_sameButCursor _).sameButStream ?_
  rintro nlen _ - ⟨⟩
  dsimp only
  split
  · exact .stop _ _
  refine .bind (copyStored_emits _ _).sameButStream ?_
  rintro _ _ - ⟨⟩
  exact .next (State.controlOk_of_plain ⟨hphase, hheld⟩ (plainIn_afterBlock (.inl rfl) _))

/-! ### The table description (R196 to R204) -/

theorem execDynHdr_controlOk {s : State} (hp : s.InPhase .dynTables) : OutcomeControlOk (execDynHdr s) := by
  rcases Nat.lt_or_ge s.bitsLeft 14 with h | h
  · obtain ⟨u, _, _, hu, -⟩ := execDynHdr_cut h
    exact hu ▸ .stop u _
  · have hframe := s.sameButCursor_pastBits 14
    have hhlit := s.field_lt 0 5
    have hhdist := s.field_lt 5 5
    rw [execDynHdr_eq h, State.withCounts, hframe]
    refine .next (State.InDescription.controlOk_cll ⟨⟨hp.phase, hp.held⟩, ?_⟩ rfl (Nat.succ_pos _))
    simp only [BitVec.toNat_ofNat]
    omega

theorem execCll_controlOk {s : State} (hd : s.InDescription) : OutcomeControlOk (execCll s) := by
  rcases Nat.lt_or_ge s.bitsLeft 3 with h | h
  · obtain ⟨u, hu, -⟩ := execCll_cut h
    exact hu ▸ .stop u _
  · obtain ⟨⟨hphase, hheld⟩, hcounts⟩ := hd
    rw [execCll_eq h, State.withField_eq, s.sameButCursor_pastBits 3]
    split
    · rename_i hmore
      have hhclen := s.work.hclen.isLt
      have hci : (s.ci + 1).val = s.ci.val + 1 := (Fin.val_add s.ci 1).trans (Nat.mod_eq_of_lt (by omega))
      exact .next (State.InDescription.controlOk_cll ⟨⟨hphase, hheld⟩, hcounts⟩ rfl (hci ▸ hmore))
    · exact .next (State.InDescription.controlOk_startCodeLengths ⟨⟨hphase, hheld⟩, hcounts⟩)

theorem repeatLen_controlOk {s : State} (hd : s.InDescription) (hct : s.ct.Ok 19) (base n : Nat) (v : BitVec 4) :
    OutcomeControlOk (repeatLen base n v s).finish := by
  obtain ⟨⟨hphase, hheld⟩, hcounts⟩ := hd
  refine .bind (readBased_sameButCursor base n s).sameButStream ?_
  rintro rep _ - ⟨⟩
  dsimp only
  split
  · exact .stop _ _
  · refine .next (State.InDescription.controlOk_pushCodeLens ⟨⟨?_, ?_⟩, ?_⟩ ?_ rep v)
    exacts [hphase, hheld, hcounts, hct]

theorem execClRep16_controlOk {s : State} (hd : s.InDescription) (hct : s.ct.Ok 19) :
    OutcomeControlOk (execClRep16 s) := by
  by_cases h : s.work.li = 0
  · exact execClRep16_of_first h ▸ .stop s _
  · exact execClRep16_of_previous h ▸ repeatLen_controlOk hd hct 3 2 _

/-! ### The expander (R170 to R178) -/

theorem execLit_controlOk {s : State} (he : s.InExpander) (sym : Sym) : OutcomeControlOk (execLit sym s) := by
  obtain ⟨⟨hphase, hheld⟩, hlit, hdist⟩ := he
  refine .bind (emit_emits _ s).sameButStream ?_
  rintro _ _ - ⟨⟩
  exact .next (State.InExpander.controlOk_litLen ⟨⟨hphase, hheld⟩, hlit, hdist⟩ rfl)

theorem execEob_controlOk {s : State} (he : s.InExpander) : OutcomeControlOk (execEob s) :=
  .next (State.controlOk_of_plain ⟨he.inPhase.phase, he.inPhase.held⟩ (plainIn_afterBlock (.inr rfl) _))

theorem matchLength_controlOk {s : State} (he : s.InExpander) {base n : Nat} (hlo : 3 ≤ base)
    (hhi : base + 2 ^ n ≤ 259) : OutcomeControlOk (matchLength base n s) := by
  obtain ⟨⟨hphase, hheld⟩, hlit, hdist⟩ := he
  refine .bind (readBased_sameButCursor base n s).sameButStream ?_
  rintro len _ hread ⟨⟩
  obtain ⟨hge, hlt⟩ := readBased_ok hread
  have hlen : (BitVec.ofNat 9 len).toNat = len := Nat.mod_eq_of_lt (by omega)
  exact .next (State.InExpander.controlOk_dist ⟨⟨hphase, hheld⟩, hlit, hdist⟩ rfl
    ⟨by rw [hlen]; omega, by rw [hlen]; omega⟩)

theorem runMatch_controlOk {s : State} (he : s.InExpander) : OutcomeControlOk (runMatch s).finish := by
  unfold runMatch
  split
  · exact .stop s _
  obtain ⟨⟨hphase, hheld⟩, hlit, hdist⟩ := he
  refine .bind (copyMatch_emits_le _ _ s).sameButStream ?_
  rintro _ _ - ⟨⟩
  exact .next (State.InExpander.controlOk_litLen ⟨⟨hphase, hheld⟩, hlit, hdist⟩ rfl)

theorem matchDistance_controlOk {s : State} (he : s.InExpander) (base n : Nat) :
    OutcomeControlOk (matchDistance base n s) := by
  obtain ⟨⟨hphase, hheld⟩, hlit, hdist⟩ := he
  refine .bind (readBased_sameButCursor base n s).sameButStream ?_
  rintro d _ - ⟨⟩
  exact runMatch_controlOk ⟨⟨hphase, hheld⟩, hlit, hdist⟩

/-! ### Every element, at its own slot -/

theorem exec_controlOk {i : Instr} {s : State} (hs : s.ControlOk) (hb : s.state = .busy) (hslot : s.slot = i.slot) :
    OutcomeControlOk (exec i s) := by
  cases i
  case magic => exact execMagic_controlOk (hs.inPhase hb hslot (by decide))
  case method => exact execMethod_controlOk (hs.inPhase hb hslot (by decide))
  case flags => exact execFlags_controlOk (hs.inPhase hb hslot (by decide))
  case skipFixed => exact execSkipFixed_controlOk (hs.inPhase hb hslot (by decide))
  case extra => exact execExtra_controlOk (hs.inPhase hb hslot (by decide))
  case name => exact execName_controlOk (hs.inPhase hb hslot (by decide))
  case comment => exact execComment_controlOk (hs.inPhase hb hslot (by decide))
  case hcrc => exact execHcrc_controlOk (hs.inPhase hb hslot (by decide))
  case trailer => exact execTrailer_controlOk s
  case blockStored f => exact execBlockStored_controlOk f s
  case blockFixed f => exact execBlockFixed_controlOk f s
  case blockDynamic f => exact execBlockDynamic_controlOk f s
  case blockReserved f => exact .stop _ _
  case storedLen => exact execStoredLen_controlOk (hs.inPhase hb hslot (by decide))
  case dynHdr => exact execDynHdr_controlOk (hs.inPhase hb hslot (by decide))
  case cll => exact execCll_controlOk (hs.inDescription_of_cll hb hslot)
  case clLit sym =>
    exact .next ((hs.inDescription_of_clSymbol hb hslot).controlOk_pushCodeLens (hs.codeLengthTable hb hslot) 1 _)
  case clRep16 =>
    exact execClRep16_controlOk (hs.inDescription_of_clSymbol hb hslot) (hs.codeLengthTable hb hslot)
  case clZero17 | clZero18 =>
    exact repeatLen_controlOk (hs.inDescription_of_clSymbol hb hslot) (hs.codeLengthTable hb hslot) _ _ 0
  case lit sym => exact execLit_controlOk (hs.inExpander_of_litLen hb hslot) sym
  case eob => exact execEob_controlOk (hs.inExpander_of_litLen hb hslot)
  case invalidLen | invalidDist => exact .stop s _
  case len257 | len258 | len259 | len260 | len261 | len262 | len263 | len264 | len285 =>
    exact matchLength_controlOk (n := 0) (hs.inExpander_of_litLen hb hslot) (by decide) (by decide)
  case len265 | len266 | len267 | len268 | len269 | len270 | len271 | len272 | len273 | len274 | len275 | len276 |
      len277 | len278 | len279 | len280 | len281 | len282 | len283 | len284 =>
    exact matchLength_controlOk (hs.inExpander_of_litLen hb hslot) (by decide) (by decide)
  case dist0 | dist1 | dist2 | dist3 | dist4 | dist5 | dist6 | dist7 | dist8 | dist9 | dist10 | dist11 | dist12 |
      dist13 | dist14 | dist15 | dist16 | dist17 | dist18 | dist19 | dist20 | dist21 | dist22 | dist23 | dist24 |
      dist25 | dist26 | dist27 | dist28 | dist29 =>
    exact matchDistance_controlOk (hs.inExpander_of_dist hb hslot) _ _

/-! ### The fetch -/

/-- DECODE and the register `sym` are no part of where a session stands. -/
theorem State.ControlOk.of_fetchSymbol {s t : State} {T : Table} {y : Sym} (hs : s.ControlOk)
    (h : fetchSymbol T s = .ok y t) : t.ControlOk ∧ t.state = s.state ∧ t.slot = s.slot := by
  obtain ⟨u, hu, rfl⟩ := fetchSymbol_eq_ok.1 h
  have hframe := decodeSymbol_sameButCursor T s
  rw [hu] at hframe
  cases hframe.sameButStream
  exact ⟨⟨hs.phase, hs.phaseHeld, hs.codeLengthTable, hs.litTable, hs.distTable, hs.codeLengths, hs.fieldIndex,
    hs.index, hs.matchLen⟩, rfl, rfl⟩

theorem slot_of_decode {slot : Slot} {v : Nat} {i : Instr} (h : decode slot v = .ok i) : i.slot = slot := by
  cases slot
  case rest => cases h
  case blockHeader => exact congrArg Prod.fst (acceptsBelow_blockHeader.encode_eq h).2
  case clSymbol => exact congrArg Prod.fst (acceptsBelow_clSymbol.encode_eq h).2
  case litLen => exact congrArg Prod.fst (acceptsBelow_litLen.encode_eq h).2
  case dist => exact congrArg Prod.fst (acceptsBelow_dist.encode_eq h).2
  all_goals
    cases h
    rfl

/-- The block header's fetch enters its phase, and the slot stays. -/
theorem readBlockHeader_controlOk {s t : State} {v : BitVec 3} (hslot : s.slot = .blockHeader)
    (h : readBlockHeader s = .ok v t) : t.ControlOk ∧ t.state = s.state ∧ t.slot = s.slot := by
  obtain ⟨hphase, hheld⟩ := s.inPhase_setPhase .blockHeader
  obtain ⟨f, u, hbit, h⟩ := Res.bind_eq_ok.1 h
  obtain ⟨b, w, hbits, h⟩ := Res.bind_eq_ok.1 h
  injection h with _ h
  have hu := readBit_sameButCursor (s.setPhase .blockHeader)
  have hw := readBits_sameButCursor 2 { u with isFinal := f }
  rw [hbit] at hu
  rw [hbits] at hw
  cases hu.sameButStream
  cases hw.sameButStream
  subst h
  exact ⟨State.controlOk_of_plain ⟨hphase, hheld⟩ (by dsimp only; rw [State.setPhase_slot, hslot]; rfl), rfl, rfl⟩

/-- A fetch that reads a value and decodes it. -/
theorem bind_decode_eq_ok {w : Nat} {x : Res (BitVec w)} {slot : Slot} {i : Instr} {t : State}
    (h : (x.bind fun y s => .ok (decode slot y.toNat) s) = .ok (.ok i) t) : (∃ y, x = .ok y t) ∧ i.slot = slot := by
  obtain ⟨y, u, hy, hd⟩ := Res.bind_eq_ok.1 h
  injection hd with hd hu
  exact ⟨⟨y, hu ▸ hy⟩, slot_of_decode hd⟩

/-- The fetch leaves a state that follows the state machine, at the slot of the element it answers. -/
theorem fetch_controlOk {s t : State} {i : Instr} (hs : s.ControlOk) (h : fetch s = .ok (.ok i) t) :
    t.ControlOk ∧ t.state = s.state ∧ t.slot = i.slot := by
  have decided (hslot : s.slot ∈ decidedSlots) : t.ControlOk ∧ t.state = s.state ∧ t.slot = i.slot := by
    rw [fetch_of_decidedSlot hslot 0] at h
    injection h with hd ht
    exact ht ▸ ⟨hs, rfl, (slot_of_decode hd).symm⟩
  cases hslot : s.slot with
  | rest =>
    simp only [fetch, hslot] at h
    cases h
  | blockHeader =>
    simp only [fetch, hslot] at h
    obtain ⟨⟨v, hv⟩, hi⟩ := bind_decode_eq_ok h
    rw [hi, ← hslot]
    exact readBlockHeader_controlOk hslot hv
  | clSymbol | litLen | dist =>
    simp only [fetch, hslot] at h
    obtain ⟨⟨y, hy⟩, hi⟩ := bind_decode_eq_ok h
    rw [hi, ← hslot]
    exact hs.of_fetchSymbol hy
  | magic | method | flags | skipFixed | extra | name | comment | hcrc | storedLen | dynHdr | cll | trailer =>
    exact decided (by rw [hslot]; decide)

/-! ### Every step -/

theorem coreStep_controlOk {s : State} (hs : s.ControlOk) : OutcomeControlOk (coreStep s) := by
  intro t h
  rcases coreStep_next h with ⟨-, rfl⟩ | ⟨-, r, u, -, rfl⟩ | ⟨hb, i, u, hf, he⟩
  · exact hs
  · exact State.controlOk_of_not_busy nofun
  · obtain ⟨hu, hstate, hslot⟩ := fetch_controlOk hs hf
    exact exec_controlOk hu (hstate.trans hb) hslot t he

/-- Host memory and the host's last read are no part of where a session stands. -/
theorem State.ControlOk.withHostSide {s : State} (hs : s.ControlOk) (d : Word) (n : Nat) (unseen : List (Nat × Nat))
    (mem : Store Byte) : State.ControlOk { s with busData := d, freeCount := n, unseen := unseen, mem := mem } :=
  ⟨hs.phase, hs.phaseHeld, hs.codeLengthTable, hs.litTable, hs.distTable, hs.codeLengths, hs.fieldIndex, hs.index,
    hs.matchLen⟩

/-- START begins a session at the container's header; while BUSY the host writes nothing of the session. -/
theorem hostStep_controlOk {m : HostMove} {s : State} (hs : s.ControlOk) : OutcomeControlOk (hostStep m s) := by
  intro t h
  rcases hostStep_next h with hread | ⟨hb, hreg⟩ | ⟨-, -, -, rfl⟩ | ⟨addr, b, -, rfl⟩ | rfl
  · rw [hread]
    exact hs.withHostSide t.busData t.freeCount t.unseen s.mem
  · rw [hreg]
    exact State.controlOk_of_not_busy hb
  · exact State.controlOk_of_plain (p := .gzHeader) ⟨rfl, List.mem_singleton.2 rfl⟩ rfl
  · exact hs.withHostSide s.busData s.freeCount s.unseen (Memory.set s.mem addr b)
  · exact State.controlOk_of_not_busy nofun

/-- Settles O55: a step is one of the core, which fetches an element and runs it, or one of the host's. -/
theorem sessionsFollowTheStateMachine : Obligations.SessionsFollowTheStateMachine := by
  intro s t hs h
  rcases step_cases s with ⟨-, he⟩ | ⟨rest, -, he⟩ | ⟨m, rest, -, he⟩ <;> rw [he] at h
  · exact coreStep_controlOk hs t h
  · exact coreStep_controlOk (hs.withHost rest) t h
  · exact hostStep_controlOk (hs.withHost rest) t h

end Sys2Proof.Machine
end

section
/-! PROOFS. The gzip container (45_gzip_container.md): what each element does with enough input and with too little, and
what it leaves unchanged. Every read here is a chain of READ_BYTE, and one that the input cannot satisfy ends at the end
of the input, however far it came. -/
namespace Sys2Proof.Machine

variable {α β : Type}

/-! ### READ_BYTE past some bytes (R120) -/

theorem readByte_pastBytes {s : State} {n : Nat} (h : n < s.bytesLeft) :
    readByte (s.pastBytes n) = .ok (s.byteAt n) (s.pastBytes (n + 1)) := by
  have hleft := s.bytesLeft_pastBytes h.le
  rw [readByte_eq (by omega), s.byteAt_pastBytes h.le, State.pastBytes_pastBytes, Nat.add_zero]

theorem State.word32At_pastBytes {s : State} {m : Nat} (h : m ≤ s.bytesLeft) (k : Nat) :
    (s.pastBytes m).word32At k = s.word32At (m + k) := by
  simp only [State.word32At, s.byteAt_pastBytes h, Nat.add_assoc]

/-! ### Reads of more bytes than are left (R120) -/

/-- The operation reads the input of `s` to its end and raises Truncated there. -/
def State.RunsOut (s : State) (x : Res α) : Prop := x = .stop .truncatedIn (s.pastBytes s.bytesLeft)

theorem State.RunsOut.bind {s : State} {x : Res α} (h : s.RunsOut x) (f : α → State → Res β) :
    s.RunsOut (x.bind f) := by
  rw [State.RunsOut, h, Res.bind_stop]

theorem State.RunsOut.finish {s : State} {x : Res Unit} (h : s.RunsOut x) :
    x.finish = .next ((s.pastBytes s.bytesLeft).enterStop .truncatedIn) := by
  rw [h, Res.finish_stop]

/-- The input ends where it did before some of it was read. -/
theorem State.RunsOut.of_pastBytes {s : State} {n : Nat} {x : Res α} (hn : n ≤ s.bytesLeft)
    (h : (s.pastBytes n).RunsOut x) : s.RunsOut x := by
  rw [State.RunsOut, h, s.bytesLeft_pastBytes hn, State.pastBytes_pastBytes, Nat.add_sub_cancel' hn]

theorem readByte_bind_runsOut {s : State} {f : Byte → State → Res α}
    (h : (s.pastBytes 1).bytesLeft + 1 = s.bytesLeft → (s.pastBytes 1).RunsOut (f (s.byteAt 0) (s.pastBytes 1))) :
    s.RunsOut ((readByte s).bind f) := by
  rcases Nat.eq_zero_or_pos s.bytesLeft with h0 | h1
  · rw [State.RunsOut, readByte_stop h0, Res.bind_stop, h0, State.pastBytes_zero]
  · rw [readByte_eq h1, Res.bind_ok]
    exact .of_pastBytes h1 (h (by rw [s.bytesLeft_pastBytes h1, Nat.sub_add_cancel h1]))

theorem read32LE_runsOut {s : State} (h : s.bytesLeft < 4) : s.RunsOut (read32LE s) :=
  readByte_bind_runsOut fun _ => readByte_bind_runsOut fun _ => readByte_bind_runsOut fun _ =>
    readByte_bind_runsOut fun _ => by omega

theorem skipBytes_runsOut {n : Nat} {s : State} (h : s.bytesLeft < n) : s.RunsOut (skipBytes n s) := by
  induction n generalizing s with
  | zero => exact absurd h (Nat.not_lt_zero _)
  | succ n ih => exact readByte_bind_runsOut fun _ => ih (by omega)

theorem skipZeroTerminatedWithin_runsOut {m : Nat} {s : State} (hm : m = s.bytesLeft)
    (hnz : ∀ k, k < s.bytesLeft → s.byteAt k ≠ 0) : s.RunsOut (skipZeroTerminatedWithin m s) := by
  induction m generalizing s with
  | zero =>
    rw [State.RunsOut, ← hm, State.pastBytes_zero]
    rfl
  | succ m ih =>
    refine readByte_bind_runsOut fun hleft => ?_
    rw [if_neg (hnz 0 (by omega))]
    refine ih (by omega) fun k hk => ?_
    rw [s.byteAt_pastBytes (by omega)]
    exact hnz _ (by omega)

/-- The skip of a name that the input does not end. -/
theorem skipZeroTerminated_runsOut {s : State} (hnz : ∀ k, k < s.bytesLeft → s.byteAt k ≠ 0) :
    s.RunsOut (skipZeroTerminated s) :=
  skipZeroTerminatedWithin_runsOut rfl hnz

/-! ### MAGIC, METHOD and FLAGS (R221 to R223) -/

/-- Settles O17: the second byte is read only after the first has been compared. -/
theorem magicChecksEachByteAsRead : Obligations.MagicChecksEachByteAsRead := by
  intro s
  have hexec : exec .magic s = execMagic s := rfl
  rw [hexec, execMagic]
  refine ⟨fun h0 => ?_, fun h1 hb => ?_, fun h1 hb => ?_, fun h2 hb hb' => ?_, fun h2 hb hb' => ?_⟩
  · rw [readByte_stop h0, Res.bind_stop, Res.finish_stop]
  · rw [readByte_eq h1, Res.bind_ok, if_pos hb, Res.finish_stop]
  · have hnone : (s.pastBytes 1).bytesLeft = 0 := by rw [s.bytesLeft_pastBytes h1.ge, h1]
    rw [readByte_eq h1.ge, Res.bind_ok, if_neg (not_not_intro hb), readByte_stop hnone, Res.bind_stop, Res.finish_stop]
  · rw [readByte_eq (by omega), Res.bind_ok, if_neg (not_not_intro hb), readByte_pastBytes h2, Res.bind_ok,
      if_pos hb', Res.finish_stop]
  · rw [readByte_eq (by omega), Res.bind_ok, if_neg (not_not_intro hb), readByte_pastBytes h2, Res.bind_ok,
      if_neg (not_not_intro hb'), Res.finish_ok]

/-- Settles O18: one byte is read and, in METHOD only, compared. -/
theorem methodAndFlagsReadOneByte : Obligations.MethodAndFlagsReadOneByte := by
  intro s
  have hmethod : exec .method s = execMethod s := rfl
  have hflags : exec .flags s = execFlags s := rfl
  rw [hmethod, hflags, execMethod, execFlags]
  refine ⟨fun h0 => ?_, fun h1 hb => ?_, fun h1 hb => ?_, fun h1 => ?_⟩
  · rw [readByte_stop h0]
    exact ⟨rfl, rfl⟩
  · rw [readByte_eq h1, Res.bind_ok, if_pos hb, Res.finish_stop]
  · rw [readByte_eq h1, Res.bind_ok, if_neg (not_not_intro hb), Res.finish_ok]
  · rw [readByte_eq h1]
    rfl

/-! ### SKIP_FIXED and the optional fields (R224 to R228) -/

/-- Settles O19: four bytes and two more, then the first field of R220 that FLG selects. -/
theorem skipFixedReadsSixBytes : Obligations.SkipFixedReadsSixBytes := by
  intro s
  have hexec : exec .skipFixed s = execSkipFixed s := rfl
  rw [hexec, execSkipFixed]
  refine ⟨fun h6 => ?_, fun h6 => State.RunsOut.finish ?_⟩
  · rw [read32LE_eq (by omega), Res.bind_ok, readByte_pastBytes (by omega), Res.bind_ok, readByte_pastBytes (by omega)]
    rfl
  · rcases Nat.lt_or_ge s.bytesLeft 4 with h4 | h4
    · exact (read32LE_runsOut h4).bind _
    · have hleft := s.bytesLeft_pastBytes h4
      rw [read32LE_eq h4, Res.bind_ok]
      exact .of_pastBytes h4 (readByte_bind_runsOut fun _ => readByte_bind_runsOut fun _ => by omega)

/-- Where the data of the extra field begins: XLEN is latched. -/
def State.atExtraData (s : State) : State := { s.pastBytes 2 with work := { s.work with xlen := s.word16At 0 } }

theorem State.bytesLeft_atExtraData {s : State} (h : 2 ≤ s.bytesLeft) : s.atExtraData.bytesLeft = s.bytesLeft - 2 :=
  s.bytesLeft_pastBytes h

theorem State.atExtraData_pastBytes (s : State) (n : Nat) :
    s.atExtraData.pastBytes n =
      { s.pastBytes (2 + n) with work := { s.work with xlen := s.word16At 0 } } := by
  rw [← s.pastBytes_pastBytes]
  rfl

/-- EXTRA once XLEN has been read. -/
theorem execExtra_eq {s : State} (h : 2 ≤ s.bytesLeft) :
    execExtra s =
      ((skipBytes (s.word16At 0).toNat s.atExtraData).bind fun _ s =>
        .ok () { s with slot := afterExtra s.work.flg }).finish := by
  rw [execExtra, read16LE_eq h]
  rfl

/-- Settles O20: XLEN is written before any of the data is skipped. -/
theorem extraSkipsItsLength : Obligations.ExtraSkipsItsLength := by
  intro s
  have hexec : exec .extra s = execExtra s := rfl
  rw [hexec]
  refine ⟨fun h2 hfits => ?_, fun h2 => ?_, fun h2 hshort => ?_⟩
  · have hleft := State.bytesLeft_atExtraData h2
    rw [execExtra_eq h2, skipBytes_eq (by omega), State.atExtraData_pastBytes]
    rfl
  · rw [execExtra, read16LE_stop h2]
    rfl
  · have hleft := State.bytesLeft_atExtraData h2
    have hskip : s.atExtraData.RunsOut (skipBytes (s.word16At 0).toNat s.atExtraData) := skipBytes_runsOut (by omega)
    rw [execExtra_eq h2, (hskip.bind _).finish, State.atExtraData_pastBytes, hleft, Nat.add_sub_cancel' h2]

/-- Settles O21: the two elements differ in what comes next only. -/
theorem nameAndCommentEndAtTheZeroByte : Obligations.NameAndCommentEndAtTheZeroByte := by
  intro s
  have hname : exec .name s = execName s := rfl
  have hcomment : exec .comment s = execComment s := rfl
  rw [hname, hcomment, execName, execComment]
  refine ⟨fun n hn hz hnz => ?_, fun hnz => ?_⟩
  · rw [skipZeroTerminated_eq hn hz hnz]
    exact ⟨rfl, rfl⟩
  · exact ⟨((skipZeroTerminated_runsOut hnz).bind _).finish, ((skipZeroTerminated_runsOut hnz).bind _).finish⟩

/-- Settles O22: the two bytes are compared with nothing. -/
theorem headerChecksumIsDiscarded : Obligations.HeaderChecksumIsDiscarded := by
  intro s
  have hexec : exec .hcrc s = execHcrc s := rfl
  rw [hexec, execHcrc]
  refine ⟨fun h2 => ?_, fun h2 => ?_⟩
  · rw [read16LE_eq h2]
    rfl
  · rw [read16LE_stop h2]
    rfl

/-! ### TRAILER (R230, R231, R233) -/

/-- Where the second word of the trailer begins: CRC32 is latched. -/
def State.atIsize (s : State) : State := { (s.setPhase .trailer).pastBytes 4 with crcField := s.word32At 0 }

theorem State.bytesLeft_atIsize {s : State} (h : 4 ≤ s.bytesLeft) : s.atIsize.bytesLeft = s.bytesLeft - 4 :=
  (s.setPhase .trailer).bytesLeft_pastBytes h

theorem State.word32At_atIsize {s : State} (h : 4 ≤ s.bytesLeft) : s.atIsize.word32At 0 = s.word32At 4 :=
  State.word32At_pastBytes (s := s.setPhase .trailer) h 0

theorem State.atIsize_pastBytes (s : State) (n : Nat) :
    s.atIsize.pastBytes n = { (s.setPhase .trailer).pastBytes (4 + n) with crcField := s.word32At 0 } := by
  rw [← State.pastBytes_pastBytes]
  rfl

/-- TRAILER once CRC32 has been read. -/
theorem execTrailer_eq {s : State} (h : 4 ≤ s.bytesLeft) :
    execTrailer s =
      ((read32LE s.atIsize).bind fun isize s => .ok () (State.succeed { s with isizeField := isize })).finish := by
  rw [execTrailer, read32LE_eq (s := s.setPhase .trailer) h]
  rfl

/-- Settles O23: CRC32 is latched before ISIZE is read, and FINISH writes the outcome. -/
theorem trailerIsLatchedAndEndsTheSession : Obligations.TrailerIsLatchedAndEndsTheSession := by
  intro s
  have hexec : exec .trailer s = execTrailer s := rfl
  rw [hexec]
  refine ⟨((s.setPhase .trailer).setPhase .sessionEnd).phasesHeld, (s.setPhase .trailer).phasesHeld, fun q => ?_,
    s.mem_phasesHeld_setPhase .trailer, fun h8 => ?_, fun h4 h8 => ?_, fun h4 => ?_⟩
  · rw [State.mem_phasesHeld_setPhase, State.mem_phasesHeld_setPhase]
  · have hleft : s.atIsize.bytesLeft = s.bytesLeft - 4 := State.bytesLeft_atIsize (by omega)
    have hisize : read32LE s.atIsize = .ok (s.atIsize.word32At 0) (s.atIsize.pastBytes 4) := read32LE_eq (by omega)
    rw [execTrailer_eq (by omega), hisize, State.word32At_atIsize (by omega), State.atIsize_pastBytes]
    rfl
  · have hleft := State.bytesLeft_atIsize h4
    have hisize : s.atIsize.RunsOut (read32LE s.atIsize) := read32LE_runsOut (by omega)
    rw [execTrailer_eq h4, (hisize.bind _).finish, State.atIsize_pastBytes, hleft, Nat.add_sub_cancel' h4]
    rfl
  · exact ((read32LE_runsOut (s := s.setPhase .trailer) h4).bind _).finish

/-! ### What the container's elements leave unchanged (R221 to R233) -/

/-- `u` is `s` but for what the header element `i` writes. -/
structure State.SameButHeader (s : State) (i : Instr) (u : State) : Prop where
  frame : u = { s with
    inPos := u.inPos, slot := u.slot, work := { s.work with flg := u.work.flg, xlen := u.work.xlen } }
  flg : i ≠ .flags → u.work.flg = s.work.flg
  xlen : i ≠ .extra → u.work.xlen = s.work.xlen

/-- The header element `i` writes in `s` what it may, and goes on or stops. -/
def State.EndsHeader (s : State) (i : Instr) : Prop := ∃ u, u.EndsIn (exec i s) ∧ s.SameButHeader i u

section
variable {s : State} {i : Instr}

theorem State.EndsHeader.of_next {n : Nat} {slot : Slot} (h : exec i s = .next { s.pastBytes n with slot := slot }) :
    s.EndsHeader i :=
  ⟨_, .inl h, ⟨rfl, fun _ => rfl, fun _ => rfl⟩⟩

theorem State.EndsHeader.of_stop {n : Nat} {r : Stop} (h : exec i s = .next ((s.pastBytes n).enterStop r)) :
    s.EndsHeader i :=
  ⟨_, .inr ⟨r, h⟩, ⟨rfl, fun _ => rfl, fun _ => rfl⟩⟩

theorem State.EndsHeader.of_stop_here {r : Stop} (h : exec i s = .next (s.enterStop r)) : s.EndsHeader i :=
  .of_stop (n := 0) (by rw [h, State.pastBytes_zero])

end

theorem execMagic_endsHeader (s : State) : s.EndsHeader .magic := by
  obtain ⟨hnone, hid1, hshort, hid2, hok⟩ := magicChecksEachByteAsRead s
  by_cases h0 : s.bytesLeft = 0
  · exact .of_stop_here (hnone h0)
  by_cases hb : s.byteAt 0 = 0x1F
  · by_cases h1 : s.bytesLeft = 1
    · exact .of_stop (hshort h1 hb)
    by_cases hb' : s.byteAt 1 = 0x8B
    · exact .of_next (hok (by omega) hb hb')
    · exact .of_stop (hid2 (by omega) hb hb')
  · exact .of_stop (hid1 (by omega) hb)

theorem execMethod_endsHeader (s : State) : s.EndsHeader .method := by
  obtain ⟨hnone, hother, hdeflate, -⟩ := methodAndFlagsReadOneByte s
  rcases Nat.eq_zero_or_pos s.bytesLeft with h0 | h1
  · exact .of_stop_here (hnone h0).1
  by_cases hb : s.byteAt 0 = 8
  · exact .of_next (hdeflate h1 hb)
  · exact .of_stop (hother h1 hb)

theorem execFlags_endsHeader (s : State) : s.EndsHeader .flags := by
  obtain ⟨hnone, -, -, hflg⟩ := methodAndFlagsReadOneByte s
  rcases Nat.eq_zero_or_pos s.bytesLeft with h0 | h1
  · exact .of_stop_here (hnone h0).2
  · exact ⟨_, .inl (hflg h1), ⟨rfl, fun h => absurd rfl h, fun _ => rfl⟩⟩

theorem execSkipFixed_endsHeader (s : State) : s.EndsHeader .skipFixed := by
  obtain ⟨hok, hshort⟩ := skipFixedReadsSixBytes s
  rcases Nat.lt_or_ge s.bytesLeft 6 with h6 | h6
  · exact .of_stop (hshort h6)
  · exact .of_next (hok h6)

theorem execExtra_endsHeader (s : State) : s.EndsHeader .extra := by
  obtain ⟨hok, hnoLength, hnoData⟩ := extraSkipsItsLength s
  rcases Nat.lt_or_ge s.bytesLeft 2 with h2 | h2
  · exact .of_stop (hnoLength h2)
  rcases Nat.lt_or_ge s.bytesLeft (2 + (s.word16At 0).toNat) with h | h
  · exact ⟨_, .inr ⟨_, hnoData h2 h⟩, ⟨rfl, fun _ => rfl, fun h => absurd rfl h⟩⟩
  · exact ⟨_, .inl (hok h2 h), ⟨rfl, fun _ => rfl, fun h => absurd rfl h⟩⟩

theorem State.firstZeroByte_or_none (s : State) :
    (∃ n, n < s.bytesLeft ∧ s.byteAt n = 0 ∧ ∀ k, k < n → s.byteAt k ≠ 0) ∨
      ∀ k, k < s.bytesLeft → s.byteAt k ≠ 0 := by
  by_cases h : ∃ n, n < s.bytesLeft ∧ s.byteAt n = 0
  · obtain ⟨hn, hz⟩ := Nat.find_spec h
    exact .inl ⟨_, hn, hz, fun k hk hk0 => Nat.find_min h hk ⟨hk.trans hn, hk0⟩⟩
  · exact .inr fun k hk hk0 => h ⟨k, hk, hk0⟩

theorem execName_execComment_endsHeader (s : State) : s.EndsHeader .name ∧ s.EndsHeader .comment := by
  obtain ⟨hzero, hnone⟩ := nameAndCommentEndAtTheZeroByte s
  rcases s.firstZeroByte_or_none with ⟨n, hn, hz, hnz⟩ | hnz
  · obtain ⟨hname, hcomment⟩ := hzero n hn hz hnz
    exact ⟨.of_next hname, .of_next hcomment⟩
  · obtain ⟨hname, hcomment⟩ := hnone hnz
    exact ⟨.of_stop hname, .of_stop hcomment⟩

theorem execHcrc_endsHeader (s : State) : s.EndsHeader .hcrc := by
  obtain ⟨hok, hshort⟩ := headerChecksumIsDiscarded s
  rcases Nat.lt_or_ge s.bytesLeft 2 with h2 | h2
  · exact .of_stop (hshort h2)
  · exact .of_next (hok h2)

theorem exec_endsHeader {i : Instr}
    (hi : i ∈ [Instr.magic, .method, .flags, .skipFixed, .extra, .name, .comment, .hcrc]) (s : State) :
    s.EndsHeader i := by
  simp only [List.mem_cons, List.not_mem_nil, or_false] at hi
  rcases hi with rfl | rfl | rfl | rfl | rfl | rfl | rfl | rfl
  · exact execMagic_endsHeader s
  · exact execMethod_endsHeader s
  · exact execFlags_endsHeader s
  · exact execSkipFixed_endsHeader s
  · exact execExtra_endsHeader s
  · exact (execName_execComment_endsHeader s).1
  · exact (execName_execComment_endsHeader s).2
  · exact execHcrc_endsHeader s

/-- `u` is `s` but for what TRAILER writes. -/
abbrev State.SameButTrailer (s u : State) : Prop :=
  u = { s with
    inPos := u.inPos, crcField := u.crcField, isizeField := u.isizeField, phase := u.phase, phasesHeld := u.phasesHeld
    slot := u.slot, state := u.state, cls := u.cls, kind := u.kind, detail := u.detail }

theorem execTrailer_endsIn (s : State) : ∃ u, s.SameButTrailer u ∧ u.EndsIn (exec .trailer s) := by
  obtain ⟨held, held', -, -, hdone, hcrc, hnone⟩ := trailerIsLatchedAndEndsTheSession s
  rcases Nat.lt_or_ge s.bytesLeft 4 with h4 | h4
  · exact ⟨_, rfl, .inr ⟨_, hnone h4⟩⟩
  rcases Nat.lt_or_ge s.bytesLeft 8 with h8 | h8
  · exact ⟨_, rfl, .inr ⟨_, hcrc h4 h8⟩⟩
  · exact ⟨_, rfl, .inl (hdone h8)⟩

/-- Settles O39: the outcomes of an element are those of its own statement, and each writes what the frame names. -/
theorem containerFrame : Obligations.ContainerFrame := by
  refine ⟨fun i hi s t h => ?_, fun s t h => ?_⟩
  · obtain ⟨u, hu, hframe, hflg, hxlen⟩ := exec_endsHeader hi s
    have ht := hu.frame h
    have hkept := hu.memoryKept h (by rw [hframe]) (by rw [hframe])
    rw [hframe] at ht
    refine ⟨by rw [ht], fun hi => ?_, fun hi => ?_, hkept⟩
    · rw [ht, ← hflg hi]
    · rw [ht, ← hxlen hi]
  · obtain ⟨u, hframe, hu⟩ := execTrailer_endsIn s
    exact ⟨by rw [hu.frame h, hframe], hu.memoryKept h (by rw [hframe]) (by rw [hframe])⟩

end Sys2Proof.Machine
end

section
/-! PROOFS. Stop entry (60_exceptions.md, sections 2 to 4): the one way a stop of the spec ends an element, and the
codes it records. -/
namespace Sys2Proof.Machine

/-- Settles O13: the host side that stop entry keeps has every byte outside the output still to come, and the triples
are those of the twelve stops. -/
theorem stopEntryRecordsTheStop : Obligations.StopEntryRecordsTheStop := by
  refine ⟨fun r s => ⟨?registers, ?bytes⟩, ?failures, ?faults⟩
  case registers => rfl
  case bytes => exact (s.hostSideKept_enterStop r).bytes
  case failures => decide
  case faults => decide

end Sys2Proof.Machine
end

section
/-! PROOFS. Decoding after encoding (30_encoding.md): the slot and the value of an element, decoded, are the element. -/
namespace Sys2Proof.Machine

open Laws.Encoding in
/-- Settles O1: an element with an operand is given back by the law of its constructor; the slot and value of any other
are constants, which `decode` maps to it. -/
theorem decodeOfEncodeIsTheInstruction : Obligations.DecodeOfEncodeIsTheInstruction := by
  intro i
  cases i
  case blockStored f => exact blockStored f
  case blockFixed f => exact blockFixed f
  case blockDynamic f => exact blockDynamic f
  case blockReserved f => exact blockReserved f
  case clLit sym => exact clLit sym
  case lit sym => exact lit sym
  case invalidLen sym => exact invalidLen sym
  case invalidDist sym => exact invalidDist sym
  all_goals exact fun _ => rfl

end Sys2Proof.Machine
end

section
/-! PROOFS. Every session ends (70_reset_and_hazards.md R278): an element that does not end the session consumes an
input bit, in the fetch where a symbol or a block header tells it and in its own reads otherwise; so the input bits left
bound the steps. -/
namespace Sys2Proof.Machine

variable {α β : Type} {n : Nat} {s t : State}

/-! ### Operations that leave fewer than `n` input bits -/

/-- Where the operation answers, fewer than `n` input bits are left. -/
def Res.OkBelow (n : Nat) (x : Res α) : Prop := ∀ a t, x = .ok a t → t.bitsLeft < n

theorem Res.OkBelow.ok {a : α} (h : t.bitsLeft < n) : (Res.ok a t).OkBelow n := by
  rintro _ _ ⟨⟩
  exact h

theorem Res.OkBelow.stop (r : Stop) (s : State) : (Res.stop r s : Res α).OkBelow n := by
  rintro _ _ ⟨⟩

theorem Res.OkBelow.bind {x : Res α} {f : α → State → Res β} (hx : x.OkBelow n)
    (hf : ∀ a t, t.bitsLeft < n → (f a t).OkBelow n) : (x.bind f).OkBelow n := by
  cases x with
  | ok a t => exact hf a t (hx a t rfl)
  | stop r t => exact .stop r t

/-! ### The Bit Reader (R120 to R126) -/

theorem readByte_okBelow (h : s.bitsLeft ≤ n) : (readByte s).OkBelow n := by
  rcases Nat.eq_zero_or_pos s.bytesLeft with h0 | h1
  · exact readByte_stop h0 ▸ .stop _ s
  · have hleft := s.bytesLeft_pastBytes (n := 1) h1
    rw [State.bitsLeft] at h
    refine readByte_eq h1 ▸ .ok ?_
    rw [State.bitsLeft, State.pastBytes_bitcnt]
    omega

theorem read16LE_okBelow (h : s.bitsLeft ≤ n) : (read16LE s).OkBelow n :=
  .bind (readByte_okBelow h) fun _ _ h => .bind (readByte_okBelow h.le) fun _ _ h => .ok h

theorem read32LE_okBelow (h : s.bitsLeft ≤ n) : (read32LE s).OkBelow n :=
  .bind (readByte_okBelow h) fun _ _ h => .bind (readByte_okBelow h.le) fun _ _ h =>
    .bind (readByte_okBelow h.le) fun _ _ h => .bind (readByte_okBelow h.le) fun _ _ h => .ok h

theorem readBits_okBelow {k : Nat} (h : s.bitsLeft < n + k) : (readBits k s).OkBelow n := by
  intro v t hread
  obtain ⟨hk, rfl⟩ := readBits_ok hread
  rw [State.bitsLeft_pastBits hk]
  omega

theorem readBit_okBelow (h : s.bitsLeft ≤ n) : (readBit s).OkBelow n := by
  rcases Nat.eq_zero_or_pos s.bitsLeft with h0 | h1
  · exact readBit_stop h0 ▸ .stop _ s
  · have hleft := State.bitsLeft_pastBits_one h1
    exact readBit_eq h1 ▸ .ok (by omega)

theorem readBased_okBelow (base : Nat) {k : Nat} (h : s.bitsLeft < n + k) : (readBased base k s).OkBelow n :=
  .bind (readBits_okBelow h) fun _ _ h => .ok h

theorem bitsLeft_align_le (s : State) : (align s).bitsLeft ≤ s.bitsLeft :=
  Nat.add_le_add_right (Nat.zero_le _) _

theorem skipBytes_okBelow (k : Nat) (h : s.bitsLeft < n) : (skipBytes k s).OkBelow n := by
  induction k generalizing s with
  | zero => exact .ok h
  | succ k ih => exact .bind (readByte_okBelow h.le) fun _ _ => ih

theorem skipZeroTerminatedWithin_okBelow (k : Nat) (h : s.bitsLeft ≤ n) :
    (skipZeroTerminatedWithin k s).OkBelow n := by
  induction k generalizing s with
  | zero => exact .stop _ s
  | succ k ih =>
    refine .bind (readByte_okBelow h) fun b t ht => ?_
    split
    · exact .ok ht
    · exact ih ht.le

/-! ### DECODE and the output (R141, R160, R173, R192) -/

theorem fetchSymbol_okBelow (T : Table) (h : s.bitsLeft ≤ n) : (fetchSymbol T s).OkBelow n := by
  intro y t hfetch
  obtain ⟨u, hu, rfl⟩ := fetchSymbol_eq_ok.1 hfetch
  obtain ⟨m, -, -, hm, rfl, -⟩ := decodeSymbol_ok hu
  have hleft := State.bitsLeft_pastBits hm
  exact show (s.pastBits (m + 1)).bitsLeft < n by omega

theorem emit_okBelow (b : Byte) (h : s.bitsLeft < n) : (emit b s).OkBelow n := by
  unfold emit
  split
  · exact .ok h
  · exact .stop _ s

theorem copyMatch_okBelow (k : Nat) (d : BitVec 16) (h : s.bitsLeft < n) : (copyMatch k d s).OkBelow n := by
  induction k generalizing s with
  | zero => exact .ok h
  | succ k ih => exact .bind (emit_okBelow _ h) fun _ _ => ih

theorem copyStored_okBelow (k : Nat) (h : s.bitsLeft < n) : (copyStored k s).OkBelow n := by
  induction k generalizing s with
  | zero => exact .ok h
  | succ k ih => exact .bind (readByte_okBelow h.le) fun b _ h => .bind (emit_okBelow b h) fun _ _ => ih

/-! ### Elements that leave fewer than `n` input bits -/

/-- The outcome, where it is a next state of a session under way, has fewer than `n` input bits left. -/
def OutcomeBelow (n : Nat) (o : Host.Outcome State Fault Refusal) : Prop :=
  ∀ t, o = .next t → t.state = .busy → t.bitsLeft < n

theorem OutcomeBelow.next (h : t.bitsLeft < n) : OutcomeBelow n (.next t) := by
  rintro _ ⟨⟩ -
  exact h

theorem OutcomeBelow.stop (r : Stop) (s : State) : OutcomeBelow n (.next (s.enterStop r)) := by
  rintro _ ⟨⟩ ⟨⟩

theorem OutcomeBelow.finish {x : Res Unit} (hx : x.OkBelow n) : OutcomeBelow n x.finish := by
  cases x with
  | ok _ t => exact .next (hx () t rfl)
  | stop r t => exact .stop r t

/-! ### Elements the slot tells: they read a bit of their own (R192, R196, R197, R221 to R231) -/

theorem execMagic_below (h : s.bitsLeft ≤ n) : OutcomeBelow n (execMagic s) := by
  refine .finish (.bind (readByte_okBelow h) fun id1 t ht => ?_)
  split
  · exact .stop _ t
  refine .bind (readByte_okBelow ht.le) fun id2 u hu => ?_
  split
  · exact .stop _ u
  · exact .ok hu

theorem execMethod_below (h : s.bitsLeft ≤ n) : OutcomeBelow n (execMethod s) := by
  refine .finish (.bind (readByte_okBelow h) fun cm t ht => ?_)
  split
  · exact .stop _ t
  · exact .ok ht

theorem execFlags_below (h : s.bitsLeft ≤ n) : OutcomeBelow n (execFlags s) :=
  .finish (.bind (readByte_okBelow h) fun _ _ h => .ok h)

theorem execSkipFixed_below (h : s.bitsLeft ≤ n) : OutcomeBelow n (execSkipFixed s) :=
  .finish (.bind (read32LE_okBelow h) fun _ _ h => .bind (readByte_okBelow h.le) fun _ _ h =>
    .bind (readByte_okBelow h.le) fun _ _ h => .ok h)

theorem execExtra_below (h : s.bitsLeft ≤ n) : OutcomeBelow n (execExtra s) :=
  .finish (.bind (read16LE_okBelow h) fun _ _ h => .bind (skipBytes_okBelow _ h) fun _ _ h => .ok h)

theorem execName_below (h : s.bitsLeft ≤ n) : OutcomeBelow n (execName s) :=
  .finish (.bind (skipZeroTerminatedWithin_okBelow _ h) fun _ _ h => .ok h)

theorem execComment_below (h : s.bitsLeft ≤ n) : OutcomeBelow n (execComment s) :=
  .finish (.bind (skipZeroTerminatedWithin_okBelow _ h) fun _ _ h => .ok h)

theorem execHcrc_below (h : s.bitsLeft ≤ n) : OutcomeBelow n (execHcrc s) :=
  .finish (.bind (read16LE_okBelow h) fun _ _ h => .ok h)

/-- TRAILER stops or ends the session, whatever input is left. -/
theorem execTrailer_below (s : State) : OutcomeBelow n (execTrailer s) := by
  intro t h hb
  rcases execTrailer_next h with ⟨r, u, rfl⟩ | ⟨u, rfl⟩ <;> cases hb

theorem execStoredLen_below (h : s.bitsLeft ≤ n) : OutcomeBelow n (execStoredLen s) := by
  refine .finish (.bind (read16LE_okBelow ((bitsLeft_align_le s).trans h)) fun len t ht => ?_)
  refine .bind (read16LE_okBelow ht.le) fun nlen u hu => ?_
  dsimp only
  split
  · exact .stop _ _
  · exact .bind (copyStored_okBelow _ hu) fun _ _ h => .ok h

theorem bitsLeft_withCounts (s : State) : s.withCounts.bitsLeft = (s.pastBits 14).bitsLeft := by
  simp only [State.withCounts, State.bitsLeft, State.bytesLeft]

theorem execDynHdr_below (h : s.bitsLeft ≤ n) : OutcomeBelow n (execDynHdr s) := by
  rcases Nat.lt_or_ge s.bitsLeft 14 with hcut | hwhole
  · obtain ⟨u, -, -, hu, -⟩ := execDynHdr_cut hcut
    exact hu ▸ .stop _ u
  · have hleft := (bitsLeft_withCounts s).trans (State.bitsLeft_pastBits hwhole)
    exact execDynHdr_eq hwhole ▸ .next (by omega)

theorem bitsLeft_nextCodeLength (s : State) : s.nextCodeLength.bitsLeft = s.bitsLeft := by
  rw [s.nextCodeLength_frame]
  rfl

theorem execCll_below (h : s.bitsLeft ≤ n) : OutcomeBelow n (execCll s) := by
  refine .finish (.bind (readBits_okBelow (by omega)) fun v t ht => ?_)
  dsimp only
  split
  · exact .ok ht
  · exact .ok ((bitsLeft_nextCodeLength _).trans_lt ht)

/-! ### Elements the fetch tells: they gain no input back (R171 to R178, R200 to R203) -/

theorem repeatLen_okBelow (base k : Nat) (v : BitVec 4) (h : s.bitsLeft < n) : (repeatLen base k v s).OkBelow n := by
  refine .bind (readBased_okBelow base (Nat.lt_add_right k h)) fun rep t ht => ?_
  dsimp only
  split
  · exact .stop _ _
  · exact .ok ((bitsLeft_nextCodeLength _).trans_lt ht)

theorem execClRep16_below (h : s.bitsLeft < n) : OutcomeBelow n (execClRep16 s) := by
  by_cases hli : s.work.li = 0
  · exact execClRep16_of_first hli ▸ .stop _ s
  · exact execClRep16_of_previous hli ▸ .finish (repeatLen_okBelow 3 2 _ h)

theorem execLit_below (sym : Sym) (h : s.bitsLeft < n) : OutcomeBelow n (execLit sym s) :=
  .finish (.bind (emit_okBelow _ h) fun _ _ h => .ok h)

theorem matchLength_below (base k : Nat) (h : s.bitsLeft < n) : OutcomeBelow n (matchLength base k s) :=
  .finish (.bind (readBased_okBelow base (Nat.lt_add_right k h)) fun _ _ h => .ok h)

theorem runMatch_okBelow (h : s.bitsLeft < n) : (runMatch s).OkBelow n := by
  unfold runMatch
  split
  · exact .stop _ s
  · exact .bind (copyMatch_okBelow _ _ h) fun _ _ h => .ok h

theorem matchDistance_below (base k : Nat) (h : s.bitsLeft < n) : OutcomeBelow n (matchDistance base k s) :=
  .finish (.bind (readBased_okBelow base (Nat.lt_add_right k h)) fun _ _ h => runMatch_okBelow h)

/-! ### Every element after its fetch -/

/-- An element consumes a bit unless its fetch has. -/
theorem exec_below {i : Instr} (hle : s.bitsLeft ≤ n) (hlt : i.slot ∉ decidedSlots → s.bitsLeft < n) :
    OutcomeBelow n (exec i s) := by
  cases i
  case magic => exact execMagic_below hle
  case method => exact execMethod_below hle
  case flags => exact execFlags_below hle
  case skipFixed => exact execSkipFixed_below hle
  case extra => exact execExtra_below hle
  case name => exact execName_below hle
  case comment => exact execComment_below hle
  case hcrc => exact execHcrc_below hle
  case trailer => exact execTrailer_below s
  case storedLen => exact execStoredLen_below hle
  case dynHdr => exact execDynHdr_below hle
  case cll => exact execCll_below hle
  all_goals replace hlt : s.bitsLeft < n := hlt (by simp only [Instr.slot]; decide)
  case blockStored | blockFixed | blockDynamic | eob => exact .next hlt
  case blockReserved | invalidLen | invalidDist => exact .stop _ _
  case clLit => exact .next ((bitsLeft_nextCodeLength _).trans_lt hlt)
  case clRep16 => exact execClRep16_below hlt
  case clZero17 | clZero18 => exact .finish (repeatLen_okBelow _ _ 0 hlt)
  case lit sym => exact execLit_below sym hlt
  case len257 | len258 | len259 | len260 | len261 | len262 | len263 | len264 | len285 =>
    exact matchLength_below _ 0 hlt
  case len265 | len266 | len267 | len268 | len269 | len270 | len271 | len272 | len273 | len274 | len275 | len276 |
      len277 | len278 | len279 | len280 | len281 | len282 | len283 | len284 => exact matchLength_below _ _ hlt
  case dist0 | dist1 | dist2 | dist3 | dist4 | dist5 | dist6 | dist7 | dist8 | dist9 | dist10 | dist11 | dist12 |
      dist13 | dist14 | dist15 | dist16 | dist17 | dist18 | dist19 | dist20 | dist21 | dist22 | dist23 | dist24 |
      dist25 | dist26 | dist27 | dist28 | dist29 => exact matchDistance_below _ _ hlt

/-! ### The fetch -/

theorem readBlockHeader_okBelow (h : s.bitsLeft ≤ n) : (readBlockHeader s).OkBelow n :=
  .bind (readBit_okBelow (s := s.setPhase .blockHeader) h) fun _ _ h =>
    .bind (readBits_okBelow (Nat.lt_add_right 2 h)) fun _ _ h => .ok h

/-- A fetch that reads the bits that tell the element consumes one at least. -/
theorem bitsLeft_fetch_lt {i : Instr} (hslot : s.slot ∉ decidedSlots) (h : fetch s = .ok (.ok i) t) :
    t.bitsLeft < s.bitsLeft := by
  cases hs : s.slot with
  | rest =>
    simp only [fetch, hs] at h
    cases h
  | blockHeader =>
    simp only [fetch, hs] at h
    obtain ⟨⟨v, hv⟩, -⟩ := bind_decode_eq_ok h
    exact readBlockHeader_okBelow le_rfl v t hv
  | clSymbol | litLen | dist =>
    simp only [fetch, hs] at h
    obtain ⟨⟨y, hy⟩, -⟩ := bind_decode_eq_ok h
    exact fetchSymbol_okBelow _ le_rfl y t hy
  | magic | method | flags | skipFixed | extra | name | comment | hcrc | storedLen | dynHdr | cll | trailer =>
    exact absurd (by rw [hs]; decide) hslot

/-! ### Every step of a BUSY core -/

/-- A session still under way after a step of the core has consumed an input bit. -/
theorem coreStep_below (hb : s.state = .busy) : OutcomeBelow s.bitsLeft (coreStep s) := by
  intro t h hbt
  rcases coreStep_next h with ⟨hidle, -⟩ | ⟨-, r, u, -, rfl⟩ | ⟨-, i, u, hf, he⟩
  · exact absurd hb hidle
  · cases hbt
  by_cases hslot : s.slot ∈ decidedSlots
  · rw [fetch_of_decidedSlot hslot 0] at hf
    injection hf with hd hu
    subst hu
    exact exec_below le_rfl (fun hi => absurd (slot_of_decode hd ▸ hslot) hi) t he hbt
  · have hlt := bitsLeft_fetch_lt hslot hf
    exact exec_below hlt.le (fun _ => hlt) t he hbt

/-- In a session that follows the state machine the core steps to a next state. -/
theorem coreStep_answers (hs : s.ControlOk) (hb : s.state = .busy) : ∃ t, coreStep s = .next t := by
  cases hf : fetch s with
  | stop r u => exact ⟨_, coreStep_of_fetch_stop hb hf⟩
  | ok x u =>
    cases x with
    | error e => exact absurd hf (fetch_no_error hs hb)
    | ok i =>
      obtain ⟨t, ht⟩ := exec_next i u
      exact ⟨t, (coreStep_of_fetch_ok hb hf).trans ht⟩

theorem coreStep_host (h : coreStep s = .next t) : t.host = s.host :=
  ((hostSideKept_keptByElements s).coreStep h (.refl s)).host

/-! ### Runs (R278) -/

theorem core_run_succ {u : State} (h : step s = .next u) (n : Nat) : core.run (n + 1) s = core.run n u := by
  have hstep : core.step s = .next u := h
  simp only [Host.Core.run, hstep]

/-- A core with no move of the host's pending leaves BUSY: each step of it that does not consumes an input bit. -/
theorem run_leaves_busy (hb : s.state = .busy) (hh : s.host = []) (hs : s.ControlOk) :
    ∃ n t, n ≤ s.bitsLeft + 1 ∧ core.run n s = .next t ∧ t.state ≠ .busy := by
  induction hm : s.bitsLeft using Nat.strong_induction_on generalizing s with
  | _ m ih =>
    obtain ⟨u, hcore⟩ := coreStep_answers hs hb
    have hstep : step s = .next u := (step_of_no_host hh).trans hcore
    by_cases hbu : u.state = .busy
    · have hlt : u.bitsLeft < m := hm ▸ coreStep_below hb u hcore hbu
      obtain ⟨n, t, hn, hrun, ht⟩ :=
        ih u.bitsLeft hlt hbu ((coreStep_host hcore).trans hh) (coreStep_controlOk hs u hcore) rfl
      exact ⟨n + 1, t, by omega, (core_run_succ hstep n).trans hrun, ht⟩
    · exact ⟨1, u, by omega, core_run_succ hstep 0, hbu⟩

/-- Settles O58: the cursor relations are not needed, since the bits left are counted for every bit cursor. -/
theorem everySessionEnds : Obligations.EverySessionEnds := fun _ hb hh hs _ => run_leaves_busy hb hh hs

end Sys2Proof.Machine
end
